-- ==== Sys2Proof/Word.lean ====
section
/-! DEFINITION. The widths of the block: bytes, command words, register words, channel numbers (00_scope.md R16, 30_encoding.md R84, R91). -/

namespace Sys2Proof

/-- One byte, bit 7 most significant (R16). -/
abbrev Byte := BitVec 8

/-- A host command word OP[15:12], DLCI[11:6], ARG[5:0] (R84). -/
abbrev CommandWord := BitVec 16

/-- A register-port value (R91). -/
abbrev RegisterWord := BitVec 32

/-- A channel number as the address byte and the command word carry it, 0..63 (R72, R84). -/
abbrev Dlci := BitVec 6

/-- The small argument of a command word, 0..63 (R84). -/
abbrev Arg := BitVec 6

/-- `sat16(x) = min(x, 0xFFFF)` (R17). -/
def sat16 (x : Nat) : Nat := min x 0xFFFF

end Sys2Proof
end

