-- ==== Sys2Proof/Config.lean ====
section
/-! DEFINITION. The implementation parameters of 00_scope.md R6 to R15: the configuration inputs that RESET samples into CFG, the values fixed at design time, and the two attempt budgets. -/

namespace Sys2Proof

/-- P_MODE (R6). -/
inductive Mode where
  | basic
  | advanced
deriving DecidableEq, Repr

/-- P_ADV_LEN: whether an advanced-mode frame carries the length field (R7). -/
inductive AdvLen where
  | present
  | absent
deriving DecidableEq, Repr

/-- The parameters RESET samples from the configuration inputs (R272), which are the fields of CFG (R25). -/
structure Cfg where
  mode : Mode
  advLen : AdvLen
  server : Bool
  nch : Nat
  maxLen : Nat
deriving DecidableEq, Repr

/-- The parameters fixed at design time and not visible in CFG (R25, R272). `none` is the spec's ∞ (R13, R14). -/
structure Design where
  bufCap : Option Nat
  evqDepth : Option Nat
  desyncThreshold : Nat
deriving DecidableEq, Repr

namespace Config

/-- P_OPEN_ATTEMPTS (R10, 90_conflicts.md C3). -/
def openAttempts : Nat := 3

/-- P_CLOSE_ATTEMPTS (R11, 90_conflicts.md C4). -/
def closeAttempts : Nat := 1

/-- The configuration inputs of V0 (95_test_vectors.md section 0). DESIGN CHOICE, log entry 3: State.reset holds them. -/
def v0 : Cfg := ⟨.basic, .present, true, 4, 31⟩

/-- The design-time parameters of V0 (95_test_vectors.md section 0). DESIGN CHOICE, log entry 3. -/
def v0Design : Design := ⟨none, none, 3⟩

end Config

end Sys2Proof
end

