-- ==== Sys2Proof/Syntax.lean ====
section
/-! DEFINITION. The operations of the block, one constructor per row of spec/opcode_table.json, and what each port presents. -/

namespace Sys2Proof

/-- The frame types of 30_encoding.md R74, and the reserved ones of R80. -/
inductive FrameType where
  | sabm
  | ua
  | dm
  | disc
  | uih
  | ui
  | reserved
deriving DecidableEq, Repr

/-- One operation of the block (00_scope.md R2). A host command keeps its DLCI field, its ARG field and its data
operand (R84). A received frame keeps its channel, its C/R bit, its P/F bit and its payload (R72, R74). -/
inductive Instr where
  | nop (dlci : Dlci) (arg : Arg) (data : List Byte)
  | start (dlci : Dlci) (arg : Arg) (data : List Byte)
  | openCh (dlci : Dlci) (arg : Arg) (data : List Byte)
  | closeCh (dlci : Dlci) (arg : Arg) (data : List Byte)
  | write (dlci : Dlci) (arg : Arg) (data : List Byte)
  | read (dlci : Dlci) (arg : Arg) (data : List Byte)
  | txctrl (dlci : Dlci) (arg : Arg) (data : List Byte)
  | teardown (dlci : Dlci) (arg : Arg) (data : List Byte)
  | timeout (dlci : Dlci) (arg : Arg) (data : List Byte)
  | linkdown (dlci : Dlci) (arg : Arg) (data : List Byte)
  | clrstat (dlci : Dlci) (arg : Arg) (data : List Byte)
  | reservedB (dlci : Dlci) (arg : Arg) (data : List Byte)
  | reservedC (dlci : Dlci) (arg : Arg) (data : List Byte)
  | reservedD (dlci : Dlci) (arg : Arg) (data : List Byte)
  | reservedE (dlci : Dlci) (arg : Arg) (data : List Byte)
  | reservedF (dlci : Dlci) (arg : Arg) (data : List Byte)
  | rxByte (b : Byte)
  | regRead (addr : Byte)
  | evPop
  | reset
  | rxSabm (dlci : Dlci) (cr pf : Bool) (payload : List Byte)
  | rxUa (dlci : Dlci) (cr pf : Bool) (payload : List Byte)
  | rxDm (dlci : Dlci) (cr pf : Bool) (payload : List Byte)
  | rxDisc (dlci : Dlci) (cr pf : Bool) (payload : List Byte)
  | rxUih (dlci : Dlci) (cr pf : Bool) (payload : List Byte)
  | rxUi (dlci : Dlci) (cr pf : Bool) (payload : List Byte)
  | rxReserved (dlci : Dlci) (cr : Bool) (control : Byte) (payload : List Byte)
deriving DecidableEq, Repr

/-- What a port presents to the block, as bits (30_encoding.md R84, R91, R92). `frame` is the content of a received
frame that passed the FCS check: its address byte, its control byte and its payload (R72, R74). -/
inductive Encoded where
  | command (word : CommandWord) (data : List Byte)
  | rxByte (b : Byte)
  | regRead (addr : Byte)
  | evPop
  | reset
  | frame (address control : Byte) (payload : List Byte)
deriving DecidableEq, Repr

/-- Why the decoder reads no instruction. -/
inductive Reject where
  /-- A data operand longer than 65535 bytes, which the command port cannot present (R84). -/
  | dataOperandTooLong
  /-- An address byte with EA = 0 (R80): the frame error BADADDR of R146. -/
  | addressNotExtended
  /-- A payload longer than 32767 bytes, which the length field cannot count (R76). -/
  | payloadTooLong
deriving DecidableEq, Repr

/-- One entry of the list of inputs the block takes one at a time (20_memory.md R52): what one of the five ports
presents, or an event of the environment that no port carries. -/
inductive Input where
  | command (word : CommandWord) (data : List Byte)
  | rxByte (b : Byte)
  | regRead (addr : Byte)
  | evPop
  | reset
  /-- The integrator changes the configuration inputs (R272). -/
  | setPins (pins : Cfg)
  /-- Another agent writes a byte to the physical stream (R279). -/
  | foreignWrite (b : Byte)
  /-- The consumer of the transmit stream could not take bytes when they were emitted (R277). -/
  | txRefused
deriving DecidableEq, Repr

end Sys2Proof
end

