-- ==== Sys2Proof/WellFormed.lean ====
section
/-! DEFINITION. Which instructions the ports can present: the length bounds of 30_encoding.md R76 and R84, and the reserved control bytes of R80. -/

namespace Sys2Proof

/-- A command's data operand has 0..65535 bytes (R84). -/
def dataFits (data : List Byte) : Bool := decide (data.length ≤ 65535)

/-- A frame's payload has 0..32767 bytes (R76). -/
def payloadFits (payload : List Byte) : Bool := decide (payload.length ≤ 32767)

/-- A control byte whose type is none of the six of R74 is reserved (R80). -/
def controlIsReserved (c : Byte) : Bool :=
  !([0x2F#8, 0x63#8, 0x0F#8, 0x43#8, 0xEF#8, 0x03#8].contains (c &&& 0xEF#8))

/-- The instruction is one that a port can present. -/
def Instr.wellFormed : Instr → Bool
  | .nop _ _ data => dataFits data
  | .start _ _ data => dataFits data
  | .openCh _ _ data => dataFits data
  | .closeCh _ _ data => dataFits data
  | .write _ _ data => dataFits data
  | .read _ _ data => dataFits data
  | .txctrl _ _ data => dataFits data
  | .teardown _ _ data => dataFits data
  | .timeout _ _ data => dataFits data
  | .linkdown _ _ data => dataFits data
  | .clrstat _ _ data => dataFits data
  | .reservedB _ _ data => dataFits data
  | .reservedC _ _ data => dataFits data
  | .reservedD _ _ data => dataFits data
  | .reservedE _ _ data => dataFits data
  | .reservedF _ _ data => dataFits data
  | .rxByte _ => true
  | .regRead _ => true
  | .evPop => true
  | .reset => true
  | .rxSabm _ _ _ payload => payloadFits payload
  | .rxUa _ _ _ payload => payloadFits payload
  | .rxDm _ _ _ payload => payloadFits payload
  | .rxDisc _ _ _ payload => payloadFits payload
  | .rxUih _ _ _ payload => payloadFits payload
  | .rxUi _ _ _ payload => payloadFits payload
  | .rxReserved _ _ c payload => controlIsReserved c && payloadFits payload

end Sys2Proof
end

