-- ==== Sys2Proof/Decode.lean ====
section
/-! DEFINITION. The decoder of commands and received frames (30_encoding.md R72, R74, R80, R84, R85), and the encoder written from the same tables. -/

namespace Sys2Proof

/-- The frame type of a control byte is `C & 0xEF` (R74), anything else is reserved (R80). -/
def frameTypeOf (c : Byte) : FrameType :=
  if c &&& 0xEF#8 = 0x2F#8 then .sabm
  else if c &&& 0xEF#8 = 0x63#8 then .ua
  else if c &&& 0xEF#8 = 0x0F#8 then .dm
  else if c &&& 0xEF#8 = 0x43#8 then .disc
  else if c &&& 0xEF#8 = 0xEF#8 then .uih
  else if c &&& 0xEF#8 = 0x03#8 then .ui
  else .reserved

/-- P/F is bit 4 of the control byte (R74). -/
def pollFinal (c : Byte) : Bool := c.getLsbD 4

/-- EA, bit 0 of an address byte or a control message's type byte (R72, R81). -/
def extensionBit (b : Byte) : Bool := b.getLsbD 0

/-- C/R, bit 1 of the address byte (R72). -/
def commandResponse (address : Byte) : Bool := address.getLsbD 1

/-- DLCI, bits 7:2 of the address byte (R72). -/
def addressDlci (address : Byte) : Dlci := address.extractLsb' 2 6

/-- `Addr(d, cr) = ((d << 2) | (cr << 1) | 1) & 0xFF` (R72, 41_encoder.md R111). -/
def addressByte (d : Dlci) (cr : Bool) : Byte :=
  ((d.setWidth 8) <<< 2) ||| (((BitVec.ofBool cr).setWidth 8) <<< 1) ||| 1#8

/-- A control byte from its type and its P/F bit (R74). -/
def controlByte (type : Byte) (pf : Bool) : Byte :=
  type ||| (((BitVec.ofBool pf).setWidth 8) <<< 4)

/-- OP, bits 15:12 of a command word (R84). -/
def wordOp (w : CommandWord) : BitVec 4 := w.extractLsb' 12 4

/-- The DLCI operand, bits 11:6 of a command word (R84). -/
def wordDlci (w : CommandWord) : Dlci := w.extractLsb' 6 6

/-- ARG, bits 5:0 of a command word (R84). -/
def wordArg (w : CommandWord) : Arg := w.extractLsb' 0 6

/-- `(OP << 12) | (d << 6) | n` (R93). -/
def commandWord (op : BitVec 4) (d : Dlci) (n : Arg) : CommandWord :=
  ((op.setWidth 16) <<< 12) ||| ((d.setWidth 16) <<< 6) ||| (n.setWidth 16)

/-- The operation of a command word, by its OP field (R85), the reserved ones included (R86). -/
def decodeCommand (w : CommandWord) (data : List Byte) : Instr :=
  match (wordOp w).toNat with
  | 0 => .nop (wordDlci w) (wordArg w) data
  | 1 => .start (wordDlci w) (wordArg w) data
  | 2 => .openCh (wordDlci w) (wordArg w) data
  | 3 => .closeCh (wordDlci w) (wordArg w) data
  | 4 => .write (wordDlci w) (wordArg w) data
  | 5 => .read (wordDlci w) (wordArg w) data
  | 6 => .txctrl (wordDlci w) (wordArg w) data
  | 7 => .teardown (wordDlci w) (wordArg w) data
  | 8 => .timeout (wordDlci w) (wordArg w) data
  | 9 => .linkdown (wordDlci w) (wordArg w) data
  | 10 => .clrstat (wordDlci w) (wordArg w) data
  | 11 => .reservedB (wordDlci w) (wordArg w) data
  | 12 => .reservedC (wordDlci w) (wordArg w) data
  | 13 => .reservedD (wordDlci w) (wordArg w) data
  | 14 => .reservedE (wordDlci w) (wordArg w) data
  | _ => .reservedF (wordDlci w) (wordArg w) data

/-- The operation a received frame selects by its control byte (R2, R74, R80). -/
def decodeFrame (address control : Byte) (payload : List Byte) : Instr :=
  match frameTypeOf control with
  | .sabm => .rxSabm (addressDlci address) (commandResponse address) (pollFinal control) payload
  | .ua => .rxUa (addressDlci address) (commandResponse address) (pollFinal control) payload
  | .dm => .rxDm (addressDlci address) (commandResponse address) (pollFinal control) payload
  | .disc => .rxDisc (addressDlci address) (commandResponse address) (pollFinal control) payload
  | .uih => .rxUih (addressDlci address) (commandResponse address) (pollFinal control) payload
  | .ui => .rxUi (addressDlci address) (commandResponse address) (pollFinal control) payload
  | .reserved => .rxReserved (addressDlci address) (commandResponse address) control payload

/-- The instruction that a port's bits stand for. Every bit pattern either decodes or is rejected by name. -/
def decode : Encoded → Except Reject Instr
  | .command w data => if dataFits data then .ok (decodeCommand w data) else .error .dataOperandTooLong
  | .rxByte b => .ok (.rxByte b)
  | .regRead a => .ok (.regRead a)
  | .evPop => .ok .evPop
  | .reset => .ok .reset
  | .frame a c payload =>
    if extensionBit a = false then .error .addressNotExtended
    else if payloadFits payload then .ok (decodeFrame a c payload)
    else .error .payloadTooLong

/-- The bits of an instruction, from the same tables (R72, R74, R84, R85). -/
def encode : Instr → Encoded
  | .nop d n data => .command (commandWord 0x0 d n) data
  | .start d n data => .command (commandWord 0x1 d n) data
  | .openCh d n data => .command (commandWord 0x2 d n) data
  | .closeCh d n data => .command (commandWord 0x3 d n) data
  | .write d n data => .command (commandWord 0x4 d n) data
  | .read d n data => .command (commandWord 0x5 d n) data
  | .txctrl d n data => .command (commandWord 0x6 d n) data
  | .teardown d n data => .command (commandWord 0x7 d n) data
  | .timeout d n data => .command (commandWord 0x8 d n) data
  | .linkdown d n data => .command (commandWord 0x9 d n) data
  | .clrstat d n data => .command (commandWord 0xA d n) data
  | .reservedB d n data => .command (commandWord 0xB d n) data
  | .reservedC d n data => .command (commandWord 0xC d n) data
  | .reservedD d n data => .command (commandWord 0xD d n) data
  | .reservedE d n data => .command (commandWord 0xE d n) data
  | .reservedF d n data => .command (commandWord 0xF d n) data
  | .rxByte b => .rxByte b
  | .regRead a => .regRead a
  | .evPop => .evPop
  | .reset => .reset
  | .rxSabm d cr pf payload => .frame (addressByte d cr) (controlByte 0x2F#8 pf) payload
  | .rxUa d cr pf payload => .frame (addressByte d cr) (controlByte 0x63#8 pf) payload
  | .rxDm d cr pf payload => .frame (addressByte d cr) (controlByte 0x0F#8 pf) payload
  | .rxDisc d cr pf payload => .frame (addressByte d cr) (controlByte 0x43#8 pf) payload
  | .rxUih d cr pf payload => .frame (addressByte d cr) (controlByte 0xEF#8 pf) payload
  | .rxUi d cr pf payload => .frame (addressByte d cr) (controlByte 0x03#8 pf) payload
  | .rxReserved d cr c payload => .frame (addressByte d cr) c payload

/-- The bits a port presents, where the input is a port's (R92). An event of the environment carries none. -/
def Input.encoded : Input → Option Encoded
  | .command w data => some (.command w data)
  | .rxByte b => some (.rxByte b)
  | .regRead a => some (.regRead a)
  | .evPop => some .evPop
  | .reset => some .reset
  | .setPins _ => none
  | .foreignWrite _ => none
  | .txRefused => none

/-- A table word as the bits of a port. A row of 16 bits is a command word with an empty data operand, a row of 8 bits
is the control byte of a good frame on DLCI 0 with an empty payload, and a row of no bits is the event port's request.
DESIGN CHOICE, log entry 13: the table's shorter rows are told apart by their port, not by a bit. -/
def tableEncoded (nbits w : Nat) : Option Encoded :=
  if nbits = 16 then some (.command (BitVec.ofNat 16 w) [])
  else if nbits = 8 then some (.frame (addressByte 0#6 true) (BitVec.ofNat 8 w) [])
  else if nbits = 0 then some .evPop
  else none

/-- The instruction the decoder reads from a word of spec/opcode_table.json. -/
def decodeTableWord (nbits w : Nat) : Option Instr :=
  match tableEncoded nbits w with
  | some e =>
    match decode e with
    | .ok i => some i
    | .error _ => none
  | none => none

end Sys2Proof
end

