-- ==== Sys2Proof/Machine/Encoder.lean ====
section
/-! DEFINITION. The frame encoder, a function without state (41_encoder.md R110 to R115, 30_encoding.md R70, R71, R76 to R78). -/

namespace Sys2Proof.Machine

/-- The flag byte of a framing mode (R70, R71). -/
def flagByte : Mode → Byte
  | .basic => 0xF9#8
  | .advanced => 0x7E#8

/-- The escape byte of advanced mode (R78). -/
def escapeByte : Byte := 0x7D#8

/-- What an escaped byte is xored with (R78, R79). -/
def escapeMask : Byte := 0x20#8

/-- Whether a frame carries the length field (R103, R112). -/
def hasLength (c : Cfg) : Bool :=
  match c.mode, c.advLen with
  | .basic, _ => true
  | .advanced, .present => true
  | .advanced, .absent => false

/-- `LenField(L)` (R76, R112). -/
def lenField (l : Nat) : List Byte :=
  if l ≤ 127 then [BitVec.ofNat 8 ((l <<< 1) ||| 1)]
  else [BitVec.ofNat 8 ((l <<< 1) &&& 0xFE), BitVec.ofNat 8 (l >>> 7)]

/-- The length a one-byte field holds (R77). -/
def oneByteLength (l0 : Byte) : Nat := (l0 >>> 1).toNat

/-- The length a two-byte field holds, `(l0 >> 1) | (l1 << 7)` (R77). -/
def twoByteLength (l0 l1 : Byte) : Nat := (l0 >>> 1).toNat ||| (l1.toNat <<< 7)

/-- `Header(d, cr, C, L)` (R103, R112). -/
def header (c : Cfg) (d : Dlci) (cr : Bool) (control : Byte) (l : Nat) : List Byte :=
  [addressByte d cr, control] ++ (if hasLength c then lenField l else [])

/-- `Stuff` of one byte (R78). -/
def stuffByte (b : Byte) : List Byte :=
  if b = flagByte .advanced then [escapeByte, 0x5E#8]
  else if b = escapeByte then [escapeByte, 0x5D#8]
  else [b]

/-- `Stuff(seq)` (R78). -/
def stuff (bytes : List Byte) : List Byte := bytes.flatMap stuffByte

/-- The bytes between the flags before stuffing: header, payload, FCS (R70, R71, R113). -/
def frameBody (c : Cfg) (d : Dlci) (cr : Bool) (control : Byte) (payload : List Byte) : List Byte :=
  header c d cr control payload.length ++ payload ++
    [fcs (covered (header c d cr control payload.length) control payload)]

/-- `EncodeFrame(d, cr, C, payload)` (R114, R115). DEDUCED, log entry 20: R114's sentence on the length of a basic-mode
frame (payload + 5, or + 6) disagrees with its own pseudocode and 6-byte empty frame, and with R95. The pseudocode is
followed, so a frame has payload + 6 bytes with a one-byte length field and + 7 with a two-byte one. -/
def encodeFrame (c : Cfg) (d : Dlci) (cr : Bool) (control : Byte) (payload : List Byte) : List Byte :=
  match c.mode with
  | .basic => [flagByte .basic] ++ frameBody c d cr control payload ++ [flagByte .basic]
  | .advanced => [flagByte .advanced] ++ stuff (frameBody c d cr control payload) ++ [flagByte .advanced]

end Sys2Proof.Machine
end

