-- ==== Sys2Proof/Machine/State.lean ====
section
/-! DEFINITION. The state of the block (10_state.md R22 to R41), its outputs and inputs as plain data, and its value after reset (70_reset_and_hazards.md R271). -/

namespace Sys2Proof.Machine

/-- LINK (R23). The value 3 is never held, so it is no constructor. -/
inductive LinkState where
  | up
  | down
  | dead
deriving DecidableEq, Repr

/-- ROLE (R24). -/
inductive Role where
  | initiator
  | responder
deriving DecidableEq, Repr

/-- CH[d].state (R32). -/
inductive ChState where
  | closed
  | opening
  | opened
  | closing
deriving DecidableEq, Repr

/-- DSTATE (R38). Codes 10 to 15 are never held, so they are no constructors. -/
inductive DState where
  | hunt
  | addr
  | ctrl
  | len1
  | len2
  | data
  | fcs
  | close
  | body
  | esc
deriving DecidableEq, Repr

/-- Status codes of host commands (30_encoding.md R88). -/
inductive Status where
  | ok
  | illegal
  | link
  | notStarted
  | noFree
  | badDlci
  | state
  | tooLong
deriving DecidableEq, Repr

/-- Frame error kinds (42_decoder.md R153). The kind is not stored. -/
inductive FrameErrorKind where
  | fcs
  | badAddr
  | badType
  | badDlci
  | payload
  | length
  | noClose
  | abort
  | short
deriving DecidableEq, Repr

/-- The event kinds that are raised (30_encoding.md R90). -/
inductive EventKind where
  | openOk
  | openFail
  | closeOk
  | closeTimeout
  | closed
  | opened
  | dataReady
  | overflow
  | ctrlRx
  | linkHealth
deriving DecidableEq, Repr

/-- Reason codes of OPEN_FAIL and CLOSED (30_encoding.md R90). -/
inductive Reason where
  | timeout
  | refused
  | linkdown
  | muxClosed
  | teardown
  | remote
deriving DecidableEq, Repr

/-- An event record (30_encoding.md R89). -/
structure EventRecord where
  kind : BitVec 4
  dlci : Dlci
  arg : Byte
  data : List Byte
deriving DecidableEq, Repr

/-- The return value of a command (30_encoding.md R87): none, OPEN's channel, or the bytes READ removed (log entry 4). -/
inductive ReturnValue where
  | nothing
  | dlci (d : Dlci)
  | bytes (bs : List Byte)
deriving DecidableEq, Repr

/-- What the latest operation answered on its port (R87, R91, R92). Log entry 5. -/
inductive Reply where
  | nothing
  | command (status : Status) (rval : ReturnValue)
  | register (value : RegisterWord)
  | event (valid : Bool) (record : EventRecord)
deriving DecidableEq, Repr

/-- A channel record CH[d] (10_state.md R31 to R37). -/
structure Channel where
  state : ChState
  att : BitVec 2
  tmr : Bool
  remote : Bool
  ovf : Bool
  buf : List Byte
deriving DecidableEq, Repr

/-- A channel record after reset (R271). -/
def Channel.reset : Channel := ⟨.closed, 0, false, false, false, []⟩

/-- DSTATE and the decoder's holding registers (10_state.md R38, R39). -/
structure Decoder where
  dstate : DState
  da : Byte
  dc : Byte
  dl0 : Byte
  dl1 : Option Byte
  dl : BitVec 15
  dpl : List Byte
  df : Byte
  dbody : List Byte
deriving DecidableEq, Repr

/-- The decoder after reset (R271, 42_decoder.md R156). -/
def Decoder.reset : Decoder := ⟨.hunt, 0, 0, 0, none, 0, [], 0, []⟩

/-- The whole state of the block (10_state.md R22), with its parameters, its outputs and the inputs still to be taken. -/
structure State where
  /-- Design-time parameters (70_reset_and_hazards.md R272), which no step changes. -/
  design : Design
  /-- The configuration inputs as they are driven now (R272). -/
  pins : Cfg
  /-- CFG (R25). -/
  cfg : Cfg
  /-- LINK (R23). -/
  link : LinkState
  /-- ROLE (R24). -/
  role : Role
  /-- FCS_ERR_CNT (R27). -/
  fcsErrCnt : BitVec 16
  /-- FRAME_ERR_CNT (R27). -/
  frameErrCnt : BitVec 16
  /-- DESYNC_BYTE_CNT (R27). -/
  desyncByteCnt : BitVec 16
  /-- RX_FRAME_CNT (R27). -/
  rxFrameCnt : BitVec 16
  /-- DROP_CNT (R27). -/
  dropCnt : BitVec 16
  /-- TX_FRAME_CNT (R27). -/
  txFrameCnt : BitVec 16
  /-- CONSEC_ERR (R28). -/
  consecErr : BitVec 16
  /-- DESYNC (R29). -/
  desync : Bool
  /-- EVOVF (R30). -/
  evOvf : Bool
  /-- CH[0..P_NCH] (R31). -/
  ch : List Channel
  /-- DSTATE and the holding registers (R38, R39). -/
  dec : Decoder
  /-- EVQ, oldest first (R40). -/
  evq : List EventRecord
  /-- The transmit stream so far (R41). Log entry 5. -/
  tx : List Byte
  /-- The answer of the latest operation (R87, R91, R92). Log entry 5. -/
  reply : Reply
  /-- Whether the block owns the physical stream (R279). Log entry 9. -/
  writing : Bool
  /-- The inputs still to be taken, in the order the block takes them (20_memory.md R52). Log entry 1. -/
  pending : List Input
deriving DecidableEq, Repr

/-- The machine right after reset (R271), in configuration V0 with no input pending. DESIGN CHOICE of V0, log entry 3. -/
def State.reset : State where
  design := Config.v0Design
  pins := Config.v0
  cfg := Config.v0
  link := .up
  role := .initiator
  fcsErrCnt := 0
  frameErrCnt := 0
  desyncByteCnt := 0
  rxFrameCnt := 0
  dropCnt := 0
  txFrameCnt := 0
  consecErr := 0
  desync := false
  evOvf := false
  ch := List.replicate (Config.v0.nch + 1) Channel.reset
  dec := Decoder.reset
  evq := []
  tx := []
  reply := .nothing
  writing := false
  pending := []

/-- Why the machine stops with a fault. -/
inductive Fault where
  /-- Raised by a step whose input is another agent's byte on the physical stream while the block owns it. The spec calls
  this outside the block's contract and treats it as a fault (93_implementation_defined.md I32). Safe: the model stops. -/
  | foreignWriter
  /-- Raised by a step whose input says that the consumer of the transmit stream could not take the bytes. The spec calls
  this outside the block's contract and treats it as a fault (93_implementation_defined.md I34). Safe: the model stops. -/
  | transmitNotAccepted
deriving DecidableEq, Repr

/-- Why the machine refuses to go on. -/
inductive Refusal where
  /-- An instruction without a meaning in this model. Raised by no arm of exec as it stands. Safe. -/
  | notModelled (mnemonic : String)
  /-- Raised by RESET when a configuration input or a design-time parameter is outside its range of R6 to R15. The spec
  says that a model may refuse to construct such a configuration (R272, 93_implementation_defined.md I9). Safe. -/
  | configurationOutOfRange
  /-- Raised by a step whose input no port can present: a data operand of more than 65535 bytes (30_encoding.md R84). Safe. -/
  | inputNotPresentable
  /-- Raised by RXBYTE in a state no run reaches, whose DSTATE belongs to the other framing mode (10_state.md R38). Safe. -/
  | decoderStateOutOfMode
deriving DecidableEq, Repr

/-- The outcome of one operation. -/
abbrev Result := Host.Outcome State Fault Refusal

end Sys2Proof.Machine
end

