-- ==== Sys2Proof/Machine/Flags.lean ====
section
/-! DEFINITION. The saturating counters and the conditions that set the sticky and link-health flags (10_state.md R27 to R30, R36). -/

namespace Sys2Proof.Machine

/-- A counter's increment, `sat16(x + 1)` (R27, 00_scope.md R17). -/
def satInc (c : BitVec 16) : BitVec 16 := BitVec.ofNat 16 (sat16 (c.toNat + 1))

/-- Whether EVQ holds P_EVQ events, so that the next one is discarded and EVOVF set (R30, 60_exceptions.md R250). -/
def State.evqFull (s : State) : Bool :=
  match s.design.evqDepth with
  | none => false
  | some depth => decide (s.evq.length = depth)

/-- Whether a frame error that leaves CONSEC_ERR at `c` sets DESYNC (R29, 42_decoder.md R150). -/
def State.desyncRises (s : State) (c : BitVec 16) : Bool :=
  decide (s.design.desyncThreshold ≤ c.toNat) && !s.desync

/-- Whether `n` more bytes do not fit in a buffer of channel length `len` (R36, 44_data_path.md R217). -/
def State.overflows (s : State) (len n : Nat) : Bool :=
  match s.design.bufCap with
  | none => false
  | some cap => decide (cap < len + n)

end Sys2Proof.Machine
end

