-- ==== Sys2Proof/Machine/Ops.lean ====
section
/-! DEFINITION. The shared operations over channels, events, the transmit stream and the decoder: the primitives of 00_scope.md R17, the Send primitives of 41_encoder.md R116 to R122, FrameError and GoodFrame (42_decoder.md R150, R151), and the channel primitives of 43_mux_control.md R177 to R179. The block has no exception entry (60_exceptions.md R252): an error is a status (`State.answer`), an event (`State.event`) or a counted frame error (`State.frameError`). -/

namespace Sys2Proof.Machine

/-- KIND of an event record (30_encoding.md R90). -/
def eventKindCode : EventKind → BitVec 4
  | .openOk => 0x1
  | .openFail => 0x2
  | .closeOk => 0x3
  | .closeTimeout => 0x4
  | .closed => 0x5
  | .opened => 0x6
  | .dataReady => 0x7
  | .overflow => 0x8
  | .ctrlRx => 0x9
  | .linkHealth => 0xA

/-- A reason code in ARG (30_encoding.md R90). -/
def reasonCode : Reason → Byte
  | .timeout => 0
  | .refused => 1
  | .linkdown => 2
  | .muxClosed => 3
  | .teardown => 4
  | .remote => 5

/-- The record of an event (30_encoding.md R89). -/
def eventRecord (kind : EventKind) (d : Nat) (arg : Byte) (data : List Byte) : EventRecord :=
  ⟨eventKindCode kind, BitVec.ofNat 6 d, arg, data⟩

/-- CH[d] (10_state.md R31). Beyond the table it reads as a record after reset, log entry 6. -/
def State.chan (s : State) (d : Nat) : Channel := s.ch.getD d Channel.reset

/-- CH[d] replaced. Beyond the table nothing is written, log entry 6. -/
def State.setChan (s : State) (d : Nat) (c : Channel) : State := { s with ch := s.ch.set d c }

/-- The logical channels 1..P_NCH in ascending order (10_state.md R31). -/
def State.logicalChannels (s : State) : List Nat := List.range' 1 s.cfg.nch

/-- The logical channels ascending, then the control channel (43_mux_control.md R175, R176). -/
def State.controlChannelLast (s : State) : List Nat := s.logicalChannels ++ [0]

/-- The operation's answer on its port. -/
def State.withReply (s : State) (r : Reply) : State := { s with reply := r }

/-- A command's status and return value (30_encoding.md R87, 43_mux_control.md R170). -/
def State.answer (s : State) (status : Status) (rval : ReturnValue) : State :=
  s.withReply (.command status rval)

/-- `Event(kind, d, arg, data)` (60_exceptions.md R250). -/
def State.event (s : State) (kind : EventKind) (d : Nat) (arg : Byte) (data : List Byte) : State :=
  { s with
    evq := if s.evqFull then s.evq else s.evq ++ [eventRecord kind d arg data]
    evOvf := if s.evqFull then true else s.evOvf }

/-- `Emit(bytes)` (00_scope.md R17, 10_state.md R41). From here on the block owns the physical stream (R279). -/
def State.emit (s : State) (bytes : List Byte) : State :=
  { s with tx := s.tx ++ bytes, writing := true }

/-- One frame on the transmit stream, counted (41_encoder.md R116, R122). -/
def State.sendFrame (s : State) (d : Nat) (cr : Bool) (control : Byte) (payload : List Byte) : State :=
  { s.emit (encodeFrame s.cfg (BitVec.ofNat 6 d) cr control payload) with txFrameCnt := satInc s.txFrameCnt }

/-- `CmdCR()` (43_mux_control.md R179). -/
def State.cmdCR (s : State) : Bool := decide (s.role = .initiator)

/-- `RspCR() = 1 - CmdCR()` (43_mux_control.md R179). -/
def State.rspCR (s : State) : Bool := !s.cmdCR

/-- `SendSABM(d)` (41_encoder.md R117). -/
def State.sendSabm (s : State) (d : Nat) : State := s.sendFrame d s.cmdCR 0x3F#8 []

/-- `SendDISC(d)` (41_encoder.md R118). -/
def State.sendDisc (s : State) (d : Nat) : State := s.sendFrame d s.cmdCR 0x53#8 []

/-- `SendUA(d, pf)` (41_encoder.md R119). -/
def State.sendUa (s : State) (d : Nat) (pf : Bool) : State := s.sendFrame d s.rspCR (controlByte 0x63#8 pf) []

/-- `SendDM(d, pf)` (41_encoder.md R120). -/
def State.sendDm (s : State) (d : Nat) (pf : Bool) : State := s.sendFrame d s.rspCR (controlByte 0x0F#8 pf) []

/-- `SendUIH(d, payload)` (41_encoder.md R121). -/
def State.sendUih (s : State) (d : Nat) (payload : List Byte) : State := s.sendFrame d s.cmdCR 0xEF#8 payload

/-- `DecoderReset()` (42_decoder.md R156). -/
def State.decoderReset (s : State) : State := { s with dec := Decoder.reset }

/-- A byte discarded in HUNT is counted (42_decoder.md R131, R139). -/
def State.countHunted (s : State) : State := { s with desyncByteCnt := satInc s.desyncByteCnt }

/-- `FrameError(kind)` (42_decoder.md R150, R153). -/
def State.frameError (s : State) (kind : FrameErrorKind) : State :=
  let consec := satInc s.consecErr
  let rises := s.desyncRises consec
  let counted : State :=
    { s with
      fcsErrCnt := if kind = .fcs then satInc s.fcsErrCnt else s.fcsErrCnt
      frameErrCnt := if kind = .fcs then s.frameErrCnt else satInc s.frameErrCnt
      consecErr := consec
      desync := s.desync || rises }
  if rises then counted.event .linkHealth 0 1 [] else counted

/-- `GoodFrame()` (42_decoder.md R151). -/
def State.goodFrame (s : State) : State :=
  let counted : State := { s with rxFrameCnt := satInc s.rxFrameCnt, consecErr := 0, desync := false }
  if s.desync then counted.event .linkHealth 0 0 [] else counted

/-- `ToClosed(d)`: buffer and ovf are kept (43_mux_control.md R177). -/
def closedChannel (c : Channel) : Channel := { c with state := .closed, tmr := false, att := 0, remote := false }

/-- `ToClosed(d)` (43_mux_control.md R177). -/
def State.toClosed (s : State) (d : Nat) : State := s.setChan d (closedChannel (s.chan d))

/-- The event a channel in `c` raises when it is closed under it: OPEN_FAIL while Opening, CLOSED while Open or Closing,
none while Closed (43_mux_control.md R175, R176, R178). -/
def lossEvent (c : ChState) : Option EventKind :=
  match c with
  | .closed => none
  | .opening => some .openFail
  | .opened => some .closed
  | .closing => some .closed

/-- The event of a channel that is closed under it, with its reason. -/
def State.raiseLoss (s : State) (d : Nat) (reason : Reason) : State :=
  match lossEvent (s.chan d).state with
  | none => s
  | some kind => s.event kind d (reasonCode reason) []

/-- One round of `Cascade()` (43_mux_control.md R178). -/
def State.cascadeOne (s : State) (e : Nat) : State :=
  if (s.chan e).state = .closed then s else (s.raiseLoss e .muxClosed).toClosed e

/-- `Cascade()` (43_mux_control.md R178). -/
def State.cascade (s : State) : State := s.logicalChannels.foldl State.cascadeOne s

/-- `CloseWith(d, kind, reason)` (43_mux_control.md R177). -/
def State.closeWith (s : State) (d : Nat) (kind : EventKind) (arg : Byte) : State :=
  let t := (s.toClosed d).event kind d arg []
  if d = 0 then t.cascade else t

/-- CH[d] enters Opening by START or OPEN with its first attempt (43_mux_control.md R171, R172). -/
def openingChannel (c : Channel) : Channel := { c with state := .opening, att := 1, tmr := true, remote := false }

/-- CH[d] enters Closing by CLOSE with its first attempt (43_mux_control.md R173). -/
def closingChannel (c : Channel) : Channel := { c with state := .closing, att := 1, tmr := true, remote := false }

/-- CH[d] enters Open, its timer and its attempts cleared (43_mux_control.md R181, R184). -/
def openedChannel (c : Channel) : Channel := { c with state := .opened, tmr := false, att := 0 }

/-- The buffer emptied and ovf cleared (10_state.md R36, R37). -/
def emptiedChannel (c : Channel) : Channel := { c with buf := [], ovf := false }

/-- Consecutive pieces of at most `n` bytes, every one but the last full (44_data_path.md R210). The first argument
bounds the number of pieces. -/
def pieces (n : Nat) : Nat → List Byte → List (List Byte)
  | 0, _ => []
  | _ + 1, [] => []
  | k + 1, b :: bs => (b :: bs).take n :: pieces n k ((b :: bs).drop n)

/-- The IRQ output: EVQ is not empty (60_exceptions.md R251). -/
def State.irq (s : State) : Bool := !s.evq.isEmpty

/-- The output TMR[d] (30_encoding.md R92, 60_exceptions.md R258). -/
def State.tmrOut (s : State) (d : Nat) : Bool := (s.chan d).tmr

end Sys2Proof.Machine
end

