-- ==== Sys2Proof/Machine/Operands.lean ====
section
/-! DEFINITION. The operand forms of commands: must-be-zero fields, channel operands, READ counts and control messages (30_encoding.md R81, R85 to R87), and the range of a configuration (00_scope.md R6 to R15). -/

namespace Sys2Proof.Machine

/-- DLCI and ARG of a command that has no operands are 0 (30_encoding.md R85, R86). -/
def noOperands (d : Dlci) (n : Arg) : Bool := decide (d = 0) && decide (n = 0)

/-- ARG of a command whose only operand is a channel is 0 (30_encoding.md R85, R86). -/
def noArgument (n : Arg) : Bool := decide (n = 0)

/-- TXCTRL's data operand is not empty and its type byte has EA = 1 (30_encoding.md R86). -/
def controlMessageLegal (data : List Byte) : Bool :=
  match data with
  | [] => false
  | t :: _ => extensionBit t

/-- `d ≤ P_NCH` (43_mux_control.md R173, R174). -/
def State.servesChannel (s : State) (d : Dlci) : Bool := decide (d.toNat ≤ s.cfg.nch)

/-- `1 ≤ d ≤ P_NCH` (44_data_path.md R210, R211). -/
def State.isLogicalChannel (s : State) (d : Dlci) : Bool := decide (1 ≤ d.toNat) && decide (d.toNat ≤ s.cfg.nch)

/-- The lowest Closed logical channel (43_mux_control.md R172). -/
def State.lowestClosed (s : State) : Option Nat :=
  s.logicalChannels.find? (fun d => decide ((s.chan d).state = .closed))

/-- Whether every logical channel is Closed (43_mux_control.md R173). -/
def State.logicalAllClosed (s : State) : Bool :=
  s.logicalChannels.all (fun d => decide ((s.chan d).state = .closed))

/-- How many bytes READ removes: ARG 0 means all, else up to ARG of them (44_data_path.md R211). DEDUCED, log entry 4: the
0..65535 bytes of 30_encoding.md R87 hold wherever P_BUFCAP is finite, and do not cut R211's "all" where it is ∞. -/
def readCount (n : Arg) (len : Nat) : Nat := if n = 0 then len else min n.toNat len

/-- The control message `[T] ++ Lm ++ value` of TXCTRL's data operand (30_encoding.md R81, 44_data_path.md R212). -/
def controlMessage (data : List Byte) : List Byte :=
  data.take 1 ++ lenField (data.drop 1).length ++ data.drop 1

/-- Whether a control message fits in one frame (44_data_path.md R212). -/
def State.controlMessageFits (s : State) (data : List Byte) : Bool :=
  decide ((data.drop 1).length ≤ 32767) &&
    decide (1 + (lenField (data.drop 1).length).length + (data.drop 1).length ≤ s.cfg.maxLen)

/-- The type byte and the value of a received control message, if it is well formed (44_data_path.md R218). -/
def parseControlMessage (p : List Byte) : Option (Byte × List Byte) :=
  match p with
  | t :: l0 :: rest =>
    if extensionBit t = false then none
    else if extensionBit l0 then
      if rest.length = oneByteLength l0 then some (t, rest) else none
    else
      match rest with
      | [] => none
      | l1 :: value => if value.length = twoByteLength l0 l1 then some (t, value) else none
  | _ => none

/-- A parameter with a capacity is in its range, ∞ included (00_scope.md R13, R14). -/
def capacityInRange (low : Nat) (cap : Option Nat) : Bool :=
  match cap with
  | none => true
  | some n => decide (low ≤ n) && decide (n ≤ 65535)

/-- Every parameter is in its range (00_scope.md R6 to R15, 70_reset_and_hazards.md R272). -/
def configInRange (design : Design) (c : Cfg) : Bool :=
  decide (1 ≤ c.nch) && decide (c.nch ≤ 61) && decide (1 ≤ c.maxLen) && decide (c.maxLen ≤ 32767) &&
    capacityInRange c.maxLen design.bufCap && capacityInRange 1 design.evqDepth &&
    decide (1 ≤ design.desyncThreshold) && decide (design.desyncThreshold ≤ 65535)

end Sys2Proof.Machine
end

