-- ==== Sys2Proof/Machine/DataPath.lean ====
section
/-! DEFINITION. Data commands and housekeeping: WRITE, READ, TXCTRL, NOP, CLRSTAT (44_data_path.md R210 to R214), and the reserved operation codes (30_encoding.md R86). -/

namespace Sys2Proof.Machine

/-- WRITE's data, one UIH frame a piece (R210). -/
def State.sendPieces (s : State) (d : Nat) (data : List Byte) : State :=
  (pieces s.cfg.maxLen data.length data).foldl (fun t p => t.sendUih d p) s

/-- WRITE (R210). -/
def execWrite (d : Dlci) (n : Arg) (data : List Byte) (s : State) : Result :=
  if noArgument n = false then .next (s.answer .illegal .nothing)
  else if s.link ≠ .up then .next (s.answer .link .nothing)
  else if s.isLogicalChannel d = false then .next (s.answer .badDlci .nothing)
  else if (s.chan d.toNat).state ≠ .opened then .next (s.answer .state .nothing)
  else .next ((s.sendPieces d.toNat data).answer .ok .nothing)

/-- READ (R211). RVAL is the bytes removed: at most 65535 with a finite P_BUFCAP (30_encoding.md R87, log entry 4). -/
def execRead (d : Dlci) (n : Arg) (_data : List Byte) (s : State) : Result :=
  if s.link = .dead then .next (s.answer .link .nothing)
  else if s.isLogicalChannel d = false then .next (s.answer .badDlci .nothing)
  else
    let c := s.chan d.toNat
    let k := readCount n c.buf.length
    .next ((s.setChan d.toNat { c with buf := c.buf.drop k }).answer .ok (.bytes (c.buf.take k)))

/-- TXCTRL (R212). -/
def execTxctrl (d : Dlci) (n : Arg) (data : List Byte) (s : State) : Result :=
  if noOperands d n = false then .next (s.answer .illegal .nothing)
  else if controlMessageLegal data = false then .next (s.answer .illegal .nothing)
  else if s.link ≠ .up then .next (s.answer .link .nothing)
  else if (s.chan 0).state ≠ .opened then .next (s.answer .notStarted .nothing)
  else if s.controlMessageFits data = false then .next (s.answer .tooLong .nothing)
  else .next ((s.sendUih 0 (controlMessage data)).answer .ok .nothing)

/-- NOP (R213). -/
def execNop (d : Dlci) (n : Arg) (_data : List Byte) (s : State) : Result :=
  if noOperands d n = false then .next (s.answer .illegal .nothing)
  else .next (s.answer .ok .nothing)

/-- The statistics CLRSTAT clears (R214). -/
def State.clearStatistics (s : State) : State :=
  { s with
    fcsErrCnt := 0
    frameErrCnt := 0
    desyncByteCnt := 0
    rxFrameCnt := 0
    dropCnt := 0
    txFrameCnt := 0
    consecErr := 0
    desync := false
    evOvf := false
    ch := s.ch.map (fun c => { c with ovf := false }) }

/-- CLRSTAT (R214). -/
def execClrstat (d : Dlci) (n : Arg) (_data : List Byte) (s : State) : Result :=
  if noOperands d n = false then .next (s.answer .illegal .nothing)
  else .next (s.clearStatistics.answer .ok .nothing)

/-- A reserved operation code: status ILLEGAL and nothing else (30_encoding.md R86). -/
def State.reservedOperation (s : State) : State := s.answer .illegal .nothing

/-- RESERVED_OP_B (30_encoding.md R86). -/
def execReservedB (_d : Dlci) (_n : Arg) (_data : List Byte) (s : State) : Result := .next s.reservedOperation

/-- RESERVED_OP_C (30_encoding.md R86). -/
def execReservedC (_d : Dlci) (_n : Arg) (_data : List Byte) (s : State) : Result := .next s.reservedOperation

/-- RESERVED_OP_D (30_encoding.md R86). -/
def execReservedD (_d : Dlci) (_n : Arg) (_data : List Byte) (s : State) : Result := .next s.reservedOperation

/-- RESERVED_OP_E (30_encoding.md R86). -/
def execReservedE (_d : Dlci) (_n : Arg) (_data : List Byte) (s : State) : Result := .next s.reservedOperation

/-- RESERVED_OP_F (30_encoding.md R86). -/
def execReservedF (_d : Dlci) (_n : Arg) (_data : List Byte) (s : State) : Result := .next s.reservedOperation

end Sys2Proof.Machine
end

