-- ==== Sys2Proof/Machine/Frames.lean ====
section
/-! DEFINITION. Received frames: SABM, UA, DM, DISC (43_mux_control.md R180 to R187), UIH and UI (44_data_path.md R217 to R221), and a reserved type (42_decoder.md R147). Each is the part of 42_decoder.md R152 that the control byte selects, after the FCS and address checks. -/

namespace Sys2Proof.Machine

/-- The checks of R152 that follow the type check, then GoodFrame and the frame's own rule: DLCI ≤ P_NCH (R148), and no
payload on SABM, UA, DM and DISC (R149). Nothing is received while LINK is not UP (R130). -/
def State.receiveFrame (s : State) (d : Dlci) (carriesPayload : Bool) (payload : List Byte) (rule : State → State) :
    State :=
  if s.link ≠ .up then s
  else if s.servesChannel d = false then s.frameError .badDlci
  else if carriesPayload = false ∧ payload ≠ [] then s.frameError .payload
  else rule s.goodFrame

/-- A remote open is accepted (43_mux_control.md R180). -/
def State.remoteOpenAccepted (s : State) (d : Nat) : Bool :=
  s.cfg.server && (decide (d = 0) || decide ((s.chan 0).state = .opened))

/-- A channel opened by an accepted remote SABM (43_mux_control.md R180). -/
def remotelyOpenedChannel (c : Channel) : Channel := emptiedChannel { openedChannel c with remote := true }

/-- `RxSABM(d, pf)` (43_mux_control.md R180 to R183). -/
def State.rxSabmRule (s : State) (d : Nat) (pf : Bool) : State :=
  match (s.chan d).state with
  | .closed =>
    if s.remoteOpenAccepted d then
      let roled := { s with role := if d = 0 then Role.responder else s.role }
      let told := roled.sendUa d pf
      (told.setChan d (remotelyOpenedChannel (told.chan d))).event .opened d 0 []
    else s.sendDm d pf
  | .opening =>
    let told := s.sendUa d pf
    (told.setChan d (openedChannel (told.chan d))).event .openOk d 0 []
  | .opened => s.sendUa d pf
  | .closing => s.sendDm d pf

/-- `RxUA(d)` (43_mux_control.md R184). -/
def State.rxUaRule (s : State) (d : Nat) : State :=
  match (s.chan d).state with
  | .closed => s
  | .opening => (s.setChan d (openedChannel (s.chan d))).event .openOk d 0 []
  | .opened => s
  | .closing => s.closeWith d .closeOk 0

/-- `RxDM(d)` (43_mux_control.md R185). -/
def State.rxDmRule (s : State) (d : Nat) : State :=
  match (s.chan d).state with
  | .closed => s
  | .opening => s.closeWith d .openFail (reasonCode .refused)
  | .opened => s.closeWith d .closed (reasonCode .remote)
  | .closing => s.closeWith d .closeOk 0

/-- `RxDISC(d, pf)` (43_mux_control.md R186, R187). -/
def State.rxDiscRule (s : State) (d : Nat) (pf : Bool) : State :=
  match (s.chan d).state with
  | .closed => s.sendDm d pf
  | .opening => (s.sendUa d pf).closeWith d .openFail (reasonCode .refused)
  | .opened => (s.sendUa d pf).closeWith d .closed (reasonCode .remote)
  | .closing => (s.sendUa d pf).closeWith d .closeOk 0

/-- `RxCtrl(p)` (44_data_path.md R218). -/
def State.rxCtrlRule (s : State) (p : List Byte) : State :=
  match parseControlMessage p with
  | some (t, value) => s.event .ctrlRx 0 t value
  | none => { s with frameErrCnt := satInc s.frameErrCnt }

/-- `DropData()` (44_data_path.md R219). -/
def State.dropData (s : State) : State := { s with dropCnt := satInc s.dropCnt }

/-- `Overflow(d)` (44_data_path.md R220). -/
def State.overflow (s : State) (d : Nat) : State :=
  (s.setChan d { s.chan d with ovf := true }).event .overflow d 0 []

/-- `RxData(d, payload)` (44_data_path.md R217 to R221). -/
def State.rxDataRule (s : State) (d : Nat) (payload : List Byte) : State :=
  if (s.chan d).state ≠ .opened ∧ (s.chan d).state ≠ .closing then s.dropData
  else if d = 0 then s.rxCtrlRule payload
  else if payload = [] then s
  else if s.overflows (s.chan d).buf.length payload.length then s.overflow d
  else (s.setChan d { s.chan d with buf := (s.chan d).buf ++ payload }).event .dataReady d 0 []

/-- RX_SABM (43_mux_control.md R180 to R183). C/R is not checked (30_encoding.md R73). -/
def execRxSabm (d : Dlci) (_cr pf : Bool) (payload : List Byte) (s : State) : Result :=
  .next ((s.receiveFrame d false payload (fun t => t.rxSabmRule d.toNat pf)).withReply .nothing)

/-- RX_UA (43_mux_control.md R184). -/
def execRxUa (d : Dlci) (_cr _pf : Bool) (payload : List Byte) (s : State) : Result :=
  .next ((s.receiveFrame d false payload (fun t => t.rxUaRule d.toNat)).withReply .nothing)

/-- RX_DM (43_mux_control.md R185). -/
def execRxDm (d : Dlci) (_cr _pf : Bool) (payload : List Byte) (s : State) : Result :=
  .next ((s.receiveFrame d false payload (fun t => t.rxDmRule d.toNat)).withReply .nothing)

/-- RX_DISC (43_mux_control.md R186, R187). -/
def execRxDisc (d : Dlci) (_cr pf : Bool) (payload : List Byte) (s : State) : Result :=
  .next ((s.receiveFrame d false payload (fun t => t.rxDiscRule d.toNat pf)).withReply .nothing)

/-- RX_UIH (44_data_path.md R217 to R221). -/
def execRxUih (d : Dlci) (_cr _pf : Bool) (payload : List Byte) (s : State) : Result :=
  .next ((s.receiveFrame d true payload (fun t => t.rxDataRule d.toNat payload)).withReply .nothing)

/-- RX_UI (44_data_path.md R217 to R221): as UIH, the two differ only in what the FCS covers. -/
def execRxUi (d : Dlci) (_cr _pf : Bool) (payload : List Byte) (s : State) : Result :=
  .next ((s.receiveFrame d true payload (fun t => t.rxDataRule d.toNat payload)).withReply .nothing)

/-- RX_RESERVED_TYPE: the frame error BADTYPE (30_encoding.md R80, 42_decoder.md R147). -/
def execRxReserved (_d : Dlci) (_cr : Bool) (_control : Byte) (_payload : List Byte) (s : State) : Result :=
  .next ((if s.link ≠ .up then s else s.frameError .badType).withReply .nothing)

end Sys2Proof.Machine
end

