-- ==== Sys2Proof/Machine/Decoder.lean ====
section
/-! DEFINITION. The receive decoder, one byte an operation: RXBYTE (42_decoder.md R130 to R152). -/

namespace Sys2Proof.Machine

/-- The operation that a frame with a good FCS and a good address selects by its control byte (R152). Each branch is the
meaning of that row of the opcode table. -/
def State.dispatchFrame (s : State) (address control : Byte) (payload : List Byte) : Result :=
  match frameTypeOf control with
  | .sabm => execRxSabm (addressDlci address) (commandResponse address) (pollFinal control) payload s
  | .ua => execRxUa (addressDlci address) (commandResponse address) (pollFinal control) payload s
  | .dm => execRxDm (addressDlci address) (commandResponse address) (pollFinal control) payload s
  | .disc => execRxDisc (addressDlci address) (commandResponse address) (pollFinal control) payload s
  | .uih => execRxUih (addressDlci address) (commandResponse address) (pollFinal control) payload s
  | .ui => execRxUi (addressDlci address) (commandResponse address) (pollFinal control) payload s
  | .reserved => execRxReserved (addressDlci address) (commandResponse address) control payload s

/-- `Validate(hdr, payload, f)` (R145, R146, R152). -/
def State.validate (s : State) (hdr payload : List Byte) (f : Byte) : Result :=
  if fcs (covered hdr (hdr.getD 1 0) payload) ≠ f then .next (s.frameError .fcs)
  else if extensionBit (hdr.getD 0 0) = false then .next (s.frameError .badAddr)
  else s.dispatchFrame (hdr.getD 0 0) (hdr.getD 1 0) payload

/-- The decoder in another DSTATE. -/
def State.goto (s : State) (d : DState) : State := { s with dec := { s.dec with dstate := d } }

/-- The end of a length field: LENGTH if it exceeds P_MAXLEN, else the payload or the FCS follows (R134, R135). -/
def State.lengthTaken (s : State) : State :=
  if s.cfg.maxLen < s.dec.dl.toNat then (s.frameError .length).goto .hunt
  else if 0 < s.dec.dl.toNat then s.goto .data
  else s.goto .fcs

/-- R134, DSTATE = LEN1. -/
def State.takeLen1 (s : State) (b : Byte) : State :=
  let held : State := { s with dec := { s.dec with dl0 := b, dl1 := none, dpl := [] } }
  if extensionBit b then
    { held with dec := { held.dec with dl := BitVec.ofNat 15 (oneByteLength b) } }.lengthTaken
  else held.goto .len2

/-- R135, DSTATE = LEN2. -/
def State.takeLen2 (s : State) (b : Byte) : State :=
  { s with dec := { s.dec with dl1 := some b, dl := BitVec.ofNat 15 (twoByteLength s.dec.dl0 b) } }.lengthTaken

/-- R136, DSTATE = DATA. -/
def State.takeData (s : State) (b : Byte) : State :=
  let held : State := { s with dec := { s.dec with dpl := s.dec.dpl ++ [b] } }
  if held.dec.dpl.length = held.dec.dl.toNat then held.goto .fcs else held

/-- The header bytes of the basic-mode frame being received (R138). -/
def basicHeader (d : Decoder) : List Byte :=
  [d.da, d.dc, d.dl0] ++ (match d.dl1 with | none => [] | some l1 => [l1])

/-- Basic mode, one byte (R131 to R138). -/
def State.basicStep (s : State) (b : Byte) : Result :=
  match s.dec.dstate with
  | .hunt => .next (if b = flagByte .basic then s.goto .addr else s.countHunted)
  | .addr => .next (if b = flagByte .basic then s else { s with dec := { s.dec with da := b, dstate := .ctrl } })
  | .ctrl => .next { s with dec := { s.dec with dc := b, dstate := .len1 } }
  | .len1 => .next (s.takeLen1 b)
  | .len2 => .next (s.takeLen2 b)
  | .data => .next (s.takeData b)
  | .fcs => .next { s with dec := { s.dec with df := b, dstate := .close } }
  | .close =>
    if b = flagByte .basic then (s.goto .addr).validate (basicHeader s.dec) s.dec.dpl s.dec.df
    else .next ((s.frameError .noClose).goto .hunt)
  | .body => .refused .decoderStateOutOfMode
  | .esc => .refused .decoderStateOutOfMode

/-- `MAXBODY = P_MAXLEN + 5` (R142). -/
def maxBody (c : Cfg) : Nat := c.maxLen + 5

/-- An unstuffed byte joins the body, which a body longer than MAXBODY ends in LENGTH (R140, R141). -/
def State.appendBody (s : State) (b : Byte) : State :=
  if maxBody s.cfg < (s.dec.dbody ++ [b]).length then
    let failed := s.frameError .length
    { failed with dec := { failed.dec with dbody := [], dstate := .hunt } }
  else { s with dec := { s.dec with dbody := s.dec.dbody ++ [b], dstate := .body } }

/-- The length an advanced-mode body with a length field says, and where its payload begins (R143). `none` is SHORT. -/
def bodyLength (body : List Byte) : Option (Nat × Nat) :=
  match body with
  | _ :: _ :: l0 :: l1 :: rest =>
    if extensionBit l0 then some (oneByteLength l0, 3)
    else if rest = [] then none
    else some (twoByteLength l0 l1, 4)
  | _ => none

/-- `ParseAdvanced(body)` with P_ADV_LEN = PRESENT (R143). -/
def State.parseWithLength (s : State) (body : List Byte) : Result :=
  match bodyLength body with
  | none => .next (s.frameError .short)
  | some (l, h) =>
    if s.cfg.maxLen < l ∨ body.length ≠ h + l + 1 then .next (s.frameError .length)
    else s.validate (body.take h) ((body.drop h).take l) (body.getD (body.length - 1) 0)

/-- `ParseAdvanced(body)` with P_ADV_LEN = ABSENT (R144). -/
def State.parseWithoutLength (s : State) (body : List Byte) : Result :=
  if body.length < 3 then .next (s.frameError .short)
  else if s.cfg.maxLen < body.length - 3 then .next (s.frameError .length)
  else s.validate (body.take 2) ((body.drop 2).take (body.length - 3)) (body.getD (body.length - 1) 0)

/-- `ParseAdvanced(body)` (R143, R144). -/
def State.parseAdvanced (s : State) (body : List Byte) : Result :=
  match s.cfg.advLen with
  | .present => s.parseWithLength body
  | .absent => s.parseWithoutLength body

/-- Advanced mode, one byte (R139 to R141). -/
def State.advancedStep (s : State) (b : Byte) : Result :=
  match s.dec.dstate with
  | .hunt =>
    .next (if b = flagByte .advanced then { s with dec := { s.dec with dbody := [], dstate := .body } }
      else s.countHunted)
  | .body =>
    if b = flagByte .advanced then
      if s.dec.dbody = [] then .next s
      else { s with dec := { s.dec with dbody := [] } }.parseAdvanced s.dec.dbody
    else if b = escapeByte then .next (s.goto .esc)
    else .next (s.appendBody b)
  | .esc =>
    if b = flagByte .advanced then
      let failed := s.frameError .abort
      .next { failed with dec := { failed.dec with dbody := [], dstate := .body } }
    else .next (s.appendBody (b ^^^ escapeMask))
  | .addr => .refused .decoderStateOutOfMode
  | .ctrl => .refused .decoderStateOutOfMode
  | .len1 => .refused .decoderStateOutOfMode
  | .len2 => .refused .decoderStateOutOfMode
  | .data => .refused .decoderStateOutOfMode
  | .fcs => .refused .decoderStateOutOfMode
  | .close => .refused .decoderStateOutOfMode

/-- RXBYTE (R130). -/
def execRxByte (b : Byte) (s : State) : Result :=
  let quiet := s.withReply .nothing
  if s.link ≠ .up then .next quiet
  else
    match s.cfg.mode with
    | .basic => quiet.basicStep b
    | .advanced => quiet.advancedStep b

end Sys2Proof.Machine
end

