-- ==== Sys2Proof/Machine/MuxControl.lean ====
section
/-! DEFINITION. Channel control commands: START, OPEN, CLOSE, TIMEOUT, LINKDOWN, TEARDOWN (43_mux_control.md R170 to R176). -/

namespace Sys2Proof.Machine

/-- START (R171). -/
def execStart (d : Dlci) (n : Arg) (_data : List Byte) (s : State) : Result :=
  if noOperands d n = false then .next (s.answer .illegal .nothing)
  else if s.link ≠ .up then .next (s.answer .link .nothing)
  else if (s.chan 0).state ≠ .closed then .next (s.answer .state .nothing)
  else
    let opening := { s with role := .initiator }.setChan 0 (openingChannel (s.chan 0))
    .next ((opening.sendSabm 0).answer .ok .nothing)

/-- OPEN (R172). -/
def execOpen (d : Dlci) (n : Arg) (_data : List Byte) (s : State) : Result :=
  if noOperands d n = false then .next (s.answer .illegal .nothing)
  else if s.link ≠ .up then .next (s.answer .link .nothing)
  else if (s.chan 0).state ≠ .opened then .next (s.answer .notStarted .nothing)
  else
    match s.lowestClosed with
    | none => .next (s.answer .noFree .nothing)
    | some e =>
      let opening := s.setChan e (emptiedChannel (openingChannel (s.chan e)))
      .next ((opening.sendSabm e).answer .ok (.dlci (BitVec.ofNat 6 e)))

/-- CLOSE (R173). -/
def execClose (d : Dlci) (n : Arg) (_data : List Byte) (s : State) : Result :=
  if noArgument n = false then .next (s.answer .illegal .nothing)
  else if s.link = .dead then .next (s.answer .link .nothing)
  else if s.servesChannel d = false then .next (s.answer .badDlci .nothing)
  else if s.link = .down then .next (s.answer .ok .nothing)
  else if (s.chan d.toNat).state ≠ .opened then .next (s.answer .state .nothing)
  else if d = 0 ∧ s.logicalAllClosed = false then .next (s.answer .state .nothing)
  else
    let closing := s.setChan d.toNat (closingChannel (s.chan d.toNat))
    .next ((closing.sendDisc d.toNat).answer .ok .nothing)

/-- One more attempt is counted (R174, 10_state.md R33). -/
def State.countAttempt (s : State) (d : Nat) : State :=
  s.setChan d { s.chan d with att := (s.chan d).att + 1 }

/-- What an expired response timer does to channel `d` (R174). -/
def State.timerExpired (s : State) (d : Nat) : State :=
  if (s.chan d).tmr = false then s
  else
    match (s.chan d).state with
    | .opening =>
      if (s.chan d).att.toNat < Config.openAttempts then (s.sendSabm d).countAttempt d
      else s.closeWith d .openFail (reasonCode .timeout)
    | .closing =>
      if (s.chan d).att.toNat < Config.closeAttempts then (s.sendDisc d).countAttempt d
      else s.closeWith d .closeTimeout 0
    | .closed => s
    | .opened => s

/-- TIMEOUT (R174, 60_exceptions.md R259). -/
def execTimeout (d : Dlci) (n : Arg) (_data : List Byte) (s : State) : Result :=
  if noArgument n = false then .next (s.answer .illegal .nothing)
  else if s.servesChannel d = false then .next (s.answer .badDlci .nothing)
  else .next ((s.timerExpired d.toNat).answer .ok .nothing)

/-- One channel lost with the link (R175). -/
def State.loseChannel (s : State) (d : Nat) : State := (s.raiseLoss d .linkdown).toClosed d

/-- LINKDOWN (R175). -/
def execLinkdown (d : Dlci) (n : Arg) (_data : List Byte) (s : State) : Result :=
  if noOperands d n = false then .next (s.answer .illegal .nothing)
  else if s.link ≠ .up then .next (s.answer .ok .nothing)
  else
    let failed := { s with link := .down, writing := false }
    .next ((s.controlChannelLast.foldl State.loseChannel failed).decoderReset.answer .ok .nothing)

/-- One channel torn down: DISC only while Open, then closed and emptied (R176). -/
def State.tearChannel (s : State) (d : Nat) : State :=
  let told := if (s.chan d).state = .opened then s.sendDisc d else s
  let lost := (told.raiseLoss d .teardown).toClosed d
  lost.setChan d (emptiedChannel (lost.chan d))

/-- TEARDOWN (R176). -/
def execTeardown (d : Dlci) (n : Arg) (_data : List Byte) (s : State) : Result :=
  if noOperands d n = false then .next (s.answer .illegal .nothing)
  else if s.link ≠ .up then .next (s.answer .link .nothing)
  else
    let torn := s.controlChannelLast.foldl State.tearChannel s
    .next ({ torn with link := .dead, writing := false }.decoderReset.answer .ok .nothing)

end Sys2Proof.Machine
end

