-- ==== Sys2Proof/Machine/Registers.lean ====
section
/-! DEFINITION. The register port (10_state.md R25 to R30, R42 to R45; 44_data_path.md R215). -/

namespace Sys2Proof.Machine

/-- STATUS.LINK (R23, R26). -/
def linkCode : LinkState → BitVec 2
  | .up => 0
  | .down => 1
  | .dead => 2

/-- STATUS.ROLE (R24, R26). -/
def roleCode : Role → BitVec 1
  | .initiator => 0
  | .responder => 1

/-- CH[d].STATE (R32, R43). -/
def chStateCode : ChState → BitVec 2
  | .closed => 0
  | .opening => 1
  | .opened => 2
  | .closing => 3

/-- STATUS.DSTATE (R38). -/
def dstateCode : DState → BitVec 4
  | .hunt => 0
  | .addr => 1
  | .ctrl => 2
  | .len1 => 3
  | .len2 => 4
  | .data => 5
  | .fcs => 6
  | .close => 7
  | .body => 8
  | .esc => 9

/-- The code of a status (30_encoding.md R88). -/
def statusCode : Status → BitVec 4
  | .ok => 0
  | .illegal => 1
  | .link => 2
  | .notStarted => 3
  | .noFree => 4
  | .badDlci => 5
  | .state => 6
  | .tooLong => 7

/-- CFG.MODE (R25). -/
def modeCode : Mode → BitVec 1
  | .basic => 0
  | .advanced => 1

/-- CFG.ADVLEN (R25). -/
def advLenCode : AdvLen → BitVec 1
  | .present => 1
  | .absent => 0

/-- CFG at address 0x00 (R25). -/
def cfgRegister (c : Cfg) : RegisterWord :=
  0#1 ++ BitVec.ofNat 15 c.maxLen ++ 0#7 ++ BitVec.ofNat 6 c.nch ++ BitVec.ofBool c.server ++ advLenCode c.advLen ++
    modeCode c.mode

/-- STATUS at address 0x01 (R26). -/
def statusRegister (s : State) : RegisterWord :=
  0#20 ++ dstateCode s.dec.dstate ++ 0#2 ++ BitVec.ofBool s.irq ++ BitVec.ofBool s.evOvf ++ BitVec.ofBool s.desync ++
    roleCode s.role ++ linkCode s.link

/-- A 16-bit counter in bits 15:0 (R27, R28). -/
def counterRegister (c : BitVec 16) : RegisterWord := 0#16 ++ c

/-- EVCOUNT at address 0x09 (R30). -/
def evcountRegister (s : State) : RegisterWord := 0#16 ++ BitVec.ofNat 16 (sat16 s.evq.length)

/-- CH[d] at address 0x40 + d (R43). -/
def channelRegister (c : Channel) : RegisterWord :=
  BitVec.ofNat 16 (sat16 c.buf.length) ++ 0#9 ++ BitVec.ofBool c.ovf ++ BitVec.ofBool c.remote ++ BitVec.ofBool c.tmr ++
    c.att ++ chStateCode c.state

/-- The value of a register address (R42). An address that R42 does not list reads 0 (R44). -/
def registerValue (s : State) (addr : Byte) : RegisterWord :=
  match addr.toNat with
  | 0 => cfgRegister s.cfg
  | 1 => statusRegister s
  | 2 => counterRegister s.fcsErrCnt
  | 3 => counterRegister s.frameErrCnt
  | 4 => counterRegister s.desyncByteCnt
  | 5 => counterRegister s.rxFrameCnt
  | 6 => counterRegister s.dropCnt
  | 7 => counterRegister s.txFrameCnt
  | 8 => counterRegister s.consecErr
  | 9 => evcountRegister s
  | n => if 0x40 ≤ n ∧ n ≤ 0x40 + s.cfg.nch then channelRegister (s.chan (n - 0x40)) else 0

end Sys2Proof.Machine
end

