-- ==== Sys2Proof/Machine/Ports.lean ====
section
/-! DEFINITION. The register port, the event port and the reset input: REGREAD and EVPOP (44_data_path.md R215, R216), RESET (70_reset_and_hazards.md R270 to R272). -/

namespace Sys2Proof.Machine

/-- REGREAD (44_data_path.md R215). -/
def execRegRead (addr : Byte) (s : State) : Result := .next (s.withReply (.register (registerValue s addr)))

/-- The record EVPOP returns from an empty queue (44_data_path.md R216). -/
def noEvent : EventRecord := ⟨0, 0, 0, []⟩

/-- EVPOP (44_data_path.md R216). -/
def execEvPop (s : State) : Result :=
  match s.evq with
  | [] => .next (s.withReply (.event false noEvent))
  | r :: rest => .next ({ s with evq := rest }.withReply (.event true r))

/-- Every field at its reset value, with CFG sampled from the configuration inputs (R270, R271). The transmit stream
already sent, the inputs still to come and the parameters stay. -/
def State.afterReset (s : State) : State :=
  { s with
    cfg := s.pins
    link := .up
    role := .initiator
    fcsErrCnt := 0
    frameErrCnt := 0
    desyncByteCnt := 0
    rxFrameCnt := 0
    dropCnt := 0
    txFrameCnt := 0
    consecErr := 0
    desync := false
    evOvf := false
    ch := List.replicate (s.pins.nch + 1) Channel.reset
    dec := Decoder.reset
    evq := []
    reply := .nothing
    writing := false }

/-- RESET (R270). A configuration outside its range is refused (R272, 93_implementation_defined.md I9). -/
def execReset (s : State) : Result :=
  if configInRange s.design s.pins then .next s.afterReset else .refused .configurationOutOfRange

end Sys2Proof.Machine
end

