-- ==== Sys2Proof/Machine/Dispatch.lean ====
section
/-! DEFINITION. One arm per row of spec/opcode_table.json. -/

namespace Sys2Proof.Machine

def exec (i : Instr) (s : State) : Host.Outcome State Fault Refusal :=
  match i with
  | .nop d n data => Sys2Proof.Machine.execNop d n data s
  | .start d n data => Sys2Proof.Machine.execStart d n data s
  | .openCh d n data => Sys2Proof.Machine.execOpen d n data s
  | .closeCh d n data => Sys2Proof.Machine.execClose d n data s
  | .write d n data => Sys2Proof.Machine.execWrite d n data s
  | .read d n data => Sys2Proof.Machine.execRead d n data s
  | .txctrl d n data => Sys2Proof.Machine.execTxctrl d n data s
  | .teardown d n data => Sys2Proof.Machine.execTeardown d n data s
  | .timeout d n data => Sys2Proof.Machine.execTimeout d n data s
  | .linkdown d n data => Sys2Proof.Machine.execLinkdown d n data s
  | .clrstat d n data => Sys2Proof.Machine.execClrstat d n data s
  | .reservedB d n data => Sys2Proof.Machine.execReservedB d n data s
  | .reservedC d n data => Sys2Proof.Machine.execReservedC d n data s
  | .reservedD d n data => Sys2Proof.Machine.execReservedD d n data s
  | .reservedE d n data => Sys2Proof.Machine.execReservedE d n data s
  | .reservedF d n data => Sys2Proof.Machine.execReservedF d n data s
  | .rxByte b => Sys2Proof.Machine.execRxByte b s
  | .regRead a => Sys2Proof.Machine.execRegRead a s
  | .evPop => Sys2Proof.Machine.execEvPop s
  | .reset => Sys2Proof.Machine.execReset s
  | .rxSabm d cr pf payload => Sys2Proof.Machine.execRxSabm d cr pf payload s
  | .rxUa d cr pf payload => Sys2Proof.Machine.execRxUa d cr pf payload s
  | .rxDm d cr pf payload => Sys2Proof.Machine.execRxDm d cr pf payload s
  | .rxDisc d cr pf payload => Sys2Proof.Machine.execRxDisc d cr pf payload s
  | .rxUih d cr pf payload => Sys2Proof.Machine.execRxUih d cr pf payload s
  | .rxUi d cr pf payload => Sys2Proof.Machine.execRxUi d cr pf payload s
  | .rxReserved d cr c payload => Sys2Proof.Machine.execRxReserved d cr c payload s

end Sys2Proof.Machine
end

