-- ==== Sys2Proof/Machine/Fetch.lean ====
section
/-! DEFINITION. How the block takes its next input (20_memory.md R52), and what the environment's events that no port carries do (93_implementation_defined.md I32 to I34). -/

namespace Sys2Proof.Machine

/-- What stands first in the list of inputs. -/
inductive Fetched where
  /-- No input is pending. -/
  | idle
  /-- The operation to run and the state without its input. -/
  | run (i : Instr) (s : State)
  /-- An event of the environment, or an input that no port can present, with its outcome. -/
  | environment (r : Result)

/-- What an event of the environment does to the state without it. The configuration inputs change nothing before the next
RESET (70_reset_and_hazards.md R272). -/
def environmentEvent (e : Input) (s : State) : Result :=
  match e with
  | .setPins p => .next { s with pins := p }
  | .foreignWrite _ => if s.writing then .fault .foreignWriter else .next s
  | .txRefused => .fault .transmitNotAccepted
  | .command _ _ => .refused .inputNotPresentable
  | .rxByte _ => .refused .inputNotPresentable
  | .regRead _ => .refused .inputNotPresentable
  | .evPop => .refused .inputNotPresentable
  | .reset => .refused .inputNotPresentable

/-- The next input, taken off the list and decoded. -/
def State.fetch (s : State) : Fetched :=
  match s.pending with
  | [] => .idle
  | e :: rest =>
    match e.encoded with
    | none => .environment (environmentEvent e { s with pending := rest })
    | some bits =>
      match decode bits with
      | .ok i => .run i { s with pending := rest }
      | .error _ => .environment (.refused .inputNotPresentable)

/-- The decoder as it stands when only the closing flag of a frame is missing (42_decoder.md R138, R140). -/
def decoderBeforeClose (c : Cfg) (address control : Byte) (payload : List Byte) : Decoder :=
  let hdr := [address, control] ++ (if hasLength c then lenField payload.length else [])
  let f := fcs (covered hdr control payload)
  match c.mode with
  | .basic =>
    { dstate := .close, da := address, dc := control, dl0 := hdr.getD 2 0,
      dl1 := hdr[3]?, dl := BitVec.ofNat 15 payload.length,
      dpl := payload, df := f, dbody := [] }
  | .advanced => { Decoder.reset with dstate := .body, dbody := hdr ++ payload ++ [f] }

/-- The state whose next step takes these bits: a port's input is put first in the list, a frame is put into the decoder
with its closing flag first in the list. Log entry 13. -/
def State.placeEncoded (s : State) (e : Encoded) : State :=
  match e with
  | .command w data => { s with pending := .command w data :: s.pending }
  | .rxByte b => { s with pending := .rxByte b :: s.pending }
  | .regRead a => { s with pending := .regRead a :: s.pending }
  | .evPop => { s with pending := .evPop :: s.pending }
  | .reset => { s with pending := .reset :: s.pending }
  | .frame a c payload =>
    { s with
      link := .up
      dec := decoderBeforeClose s.cfg a c payload
      pending := .rxByte (flagByte s.cfg.mode) :: s.pending }

/-- The state whose next step runs a word of spec/opcode_table.json. -/
def State.placeTableWord (s : State) (nbits w : Nat) : State :=
  match tableEncoded nbits w with
  | some e => s.placeEncoded e
  | none => s

end Sys2Proof.Machine
end

