-- ==== Sys2Proof/Machine/Step.lean ====
section
/-! DEFINITION. One step: the block takes its next input, one atomic operation (00_scope.md R18, 20_memory.md R52). -/

namespace Sys2Proof.Machine

/-- One step. With no input pending the block stays as it is (DESIGN CHOICE, log entry 2). -/
def step (s : State) : Host.Outcome State Fault Refusal :=
  match s.fetch with
  | .idle => .next s
  | .run i t => exec i t
  | .environment r => r

/-- `s` with a word of spec/opcode_table.json where the next step takes its input. -/
def State.withFetchWord (s : State) (nbits w : Nat) : State := s.placeTableWord nbits w

end Sys2Proof.Machine
end

