-- ==== Sys2Proof/Safety.lean ====
section
/-! DEFINITION. What holds in every state the block reaches (10_state.md R47 and the bounds of R27 to R40), what an illegal command encoding is (30_encoding.md R86), and how a byte sequence is received. -/

namespace Sys2Proof.Machine

/-- Items 1, 2, 3 and 7 of R47, for one channel record. -/
abbrev channelConsistent (c : Channel) : Prop :=
  (c.tmr = true ↔ c.state = .opening ∨ c.state = .closing) ∧
  (c.att = 0 ↔ c.state = .closed ∨ c.state = .opened) ∧
  (c.state = .opening → c.att.toNat ≤ Config.openAttempts) ∧
  (c.state = .closing → c.att.toNat ≤ Config.closeAttempts) ∧
  (c.remote = true → c.state = .opened)

/-- The channel table has one record for each of 0..P_NCH (R31). -/
abbrev State.tableComplete (s : State) : Prop := s.ch.length = s.cfg.nch + 1

/-- Items 1 to 8 of R47, over a complete channel table. -/
abbrev State.channelsConsistent (s : State) : Prop :=
  s.tableComplete ∧
  (∀ d, d ≤ s.cfg.nch → channelConsistent (s.chan d)) ∧
  (s.link ≠ .up → ∀ d, d ≤ s.cfg.nch → (s.chan d).state = .closed) ∧
  ((s.chan 0).state ≠ .opened → ∀ d, d ≤ s.cfg.nch → d ≠ 0 → (s.chan d).state = .closed) ∧
  (s.link = .dead → ∀ d, d ≤ s.cfg.nch → (s.chan d).buf = []) ∧
  (s.chan 0).buf = [] ∧ (s.chan 0).ovf = false

/-- Every parameter is in its range (00_scope.md R6 to R15). -/
abbrev State.configured (s : State) : Prop := configInRange s.design s.cfg = true

/-- DSTATE is one of the framing mode's states (R38). -/
def dstateOfMode : Mode → DState → Bool
  | .basic, .body => false
  | .basic, .esc => false
  | .basic, _ => true
  | .advanced, .hunt => true
  | .advanced, .body => true
  | .advanced, .esc => true
  | .advanced, _ => false

/-- The decoder is in a state of its mode and holds no more than R39 and R142 allow: in DATA fewer payload bytes than the
length says, in FCS and CLOSE exactly that many. -/
abbrev State.decoderConsistent (s : State) : Prop :=
  dstateOfMode s.cfg.mode s.dec.dstate = true ∧
  s.dec.dpl.length ≤ s.cfg.maxLen ∧
  s.dec.dbody.length ≤ maxBody s.cfg ∧
  (s.dec.dstate = .data → s.dec.dpl.length < s.dec.dl.toNat ∧ s.dec.dl.toNat ≤ s.cfg.maxLen) ∧
  (s.dec.dstate = .len2 → s.dec.dpl = []) ∧
  (s.dec.dstate = .fcs ∨ s.dec.dstate = .close → s.dec.dpl.length = s.dec.dl.toNat)

/-- DESYNC is set exactly while CONSEC_ERR has reached P_DESYNC_THRESHOLD (R29). -/
abbrev State.linkHealthConsistent (s : State) : Prop :=
  1 ≤ s.design.desyncThreshold ∧ s.design.desyncThreshold ≤ 65535 ∧
  (s.desync = true ↔ s.design.desyncThreshold ≤ s.consecErr.toNat)

/-- `len` does not exceed a capacity, ∞ included (R13, R14). -/
def fitsCapacity (len : Nat) (cap : Option Nat) : Bool :=
  match cap with
  | none => true
  | some n => decide (len ≤ n)

/-- No buffer holds more than P_BUFCAP bytes and EVQ no more than P_EVQ records (20_memory.md R63). -/
abbrev State.withinCapacity (s : State) : Prop :=
  (∀ c ∈ s.ch, fitsCapacity c.buf.length s.design.bufCap = true) ∧
  fitsCapacity s.evq.length s.design.evqDepth = true

/-- A record that the block raises: its kind is one of R90's ten, its channel is served, and only CTRL_RX carries data
(30_encoding.md R89, R90). -/
abbrev recordLegal (c : Cfg) (r : EventRecord) : Prop :=
  1 ≤ r.kind.toNat ∧ r.kind.toNat ≤ 10 ∧ r.dlci.toNat ≤ c.nch ∧ (r.kind ≠ 0x9 → r.data = [])

/-- Every queued record is legal. -/
abbrev State.eventsLegal (s : State) : Prop := ∀ r ∈ s.evq, recordLegal s.cfg r

/-- The block owns the physical stream only while LINK is UP (70_reset_and_hazards.md R279). -/
abbrev State.ownershipConsistent (s : State) : Prop := s.writing = true → s.link = .up

/-- Everything that holds in every state the block reaches. -/
structure State.Inv (s : State) : Prop where
  configured : s.configured
  channels : s.channelsConsistent
  decoder : s.decoderConsistent
  linkHealth : s.linkHealthConsistent
  capacity : s.withinCapacity
  events : s.eventsLegal
  ownership : s.ownershipConsistent

/-- EVQ after these records are raised in order, P_EVQ respected (60_exceptions.md R250). -/
def queued (depth : Option Nat) (evq news : List EventRecord) : List EventRecord :=
  match depth with
  | none => evq ++ news
  | some k => (evq ++ news).take k

/-- Whether raising these records discards one (60_exceptions.md R250). -/
def discards (depth : Option Nat) (evq news : List EventRecord) : Bool :=
  match depth with
  | none => false
  | some k => decide (k < evq.length + news.length)

/-- The record that closing channel `d` under it raises, with its reason: OPEN_FAIL while Opening, CLOSED while Open or
Closing, none while Closed (43_mux_control.md R175, R176, R178). -/
def lossRecord (reason : Byte) (s : State) (d : Nat) : Option EventRecord :=
  match (s.chan d).state with
  | .closed => none
  | .opening => some ⟨0x2, BitVec.ofNat 6 d, reason, []⟩
  | .opened => some ⟨0x5, BitVec.ofNat 6 d, reason, []⟩
  | .closing => some ⟨0x5, BitVec.ofNat 6 d, reason, []⟩

/-- The command encodings that R86 calls illegal: a reserved operation code, a must-be-zero field that is not 0, and a
TXCTRL whose data operand is empty or whose type byte has bit 0 = 0. -/
def illegalEncoding : Instr → Bool
  | .nop d n _ => !(d == 0 && n == 0)
  | .start d n _ => !(d == 0 && n == 0)
  | .openCh d n _ => !(d == 0 && n == 0)
  | .closeCh _ n _ => !(n == 0)
  | .write _ n _ => !(n == 0)
  | .read _ _ _ => false
  | .txctrl d n data => !(d == 0 && n == 0) || !((data.headD 0).getLsbD 0)
  | .teardown d n _ => !(d == 0 && n == 0)
  | .timeout _ n _ => !(n == 0)
  | .linkdown d n _ => !(d == 0 && n == 0)
  | .clrstat d n _ => !(d == 0 && n == 0)
  | .reservedB _ _ _ => true
  | .reservedC _ _ _ => true
  | .reservedD _ _ _ => true
  | .reservedE _ _ _ => true
  | .reservedF _ _ _ => true
  | .rxByte _ => false
  | .regRead _ => false
  | .evPop => false
  | .reset => false
  | .rxSabm _ _ _ _ => false
  | .rxUa _ _ _ _ => false
  | .rxDm _ _ _ _ => false
  | .rxDisc _ _ _ _ => false
  | .rxUih _ _ _ _ => false
  | .rxUi _ _ _ _ => false
  | .rxReserved _ _ _ _ => false

/-- Bytes delivered to the receive port one after the other, up to the first that stops the machine. -/
def feed : List Byte → State → Result
  | [], s => .next s
  | b :: bs, s =>
    match exec (.rxByte b) s with
    | .next t => feed bs t
    | .fault r => .fault r
    | .refused r => .refused r

/-- The operation runs the received frame `f`: it is `f` itself, or the closing flag after which nothing but the decoder
and the port's answer has moved when `f` runs (42_decoder.md R138, R140, R152). -/
abbrev State.completes (s : State) (i f : Instr) : Prop :=
  i = f ∨ (i = .rxByte (flagByte s.cfg.mode) ∧ (s.dec.dstate = .close ∨ s.dec.dstate = .body) ∧
    ∃ dec' : Decoder, exec i s = exec f { s with dec := dec', reply := .nothing })

/-- A frame the block emits: channel, C/R, control byte, payload. -/
structure OutFrame where
  dlci : Dlci
  cr : Bool
  control : Byte
  payload : List Byte
deriving DecidableEq, Repr

/-- The bytes of an emitted frame. -/
def OutFrame.bytes (c : Cfg) (f : OutFrame) : List Byte := encodeFrame c f.dlci f.cr f.control f.payload

/-- The frames of 41_encoder.md R117 to R121: the seven control bytes of R123, a payload only on UIH and of at most
P_MAXLEN bytes. -/
abbrev OutFrame.legal (c : Cfg) (f : OutFrame) : Prop :=
  f.control ∈ [0x3F#8, 0x53#8, 0x63#8, 0x73#8, 0x0F#8, 0x1F#8, 0xEF#8] ∧
  (f.control ≠ 0xEF#8 → f.payload = []) ∧ f.payload.length ≤ c.maxLen

/-- An input that the block can take without leaving its contract: what a port can present, RESET with a configuration in
range, and no breach of R277 or R279. -/
def State.inputInContract (s : State) (e : Input) : Bool :=
  match e with
  | .command _ data => dataFits data
  | .rxByte _ => true
  | .regRead _ => true
  | .evPop => true
  | .reset => configInRange s.design s.pins
  | .setPins _ => true
  | .foreignWrite _ => !s.writing
  | .txRefused => false

end Sys2Proof.Machine
end

