-- ==== Sys2Proof/Certificates/Slice0/Obligations.lean ====
section
/-! DEFINITION. The statements for the provers. Each docstring names the rule of spec/ it formalises. -/

open Sys2Proof Sys2Proof.Machine

/-! ### Encodings -/

/-- Decoding the bits of a well-formed instruction gives it back, for every instruction and every operand
(30_encoding.md R72, R74, R84, R85). -/
def Obligations.DecodeOfEncodeIsTheInstruction : Prop :=
  ∀ i : Instr, i.wellFormed = true → decode (encode i) = .ok i

/-- Every bit pattern the decoder accepts has one meaning, and the encoder gives back exactly its bits. -/
def Obligations.EncodeOfDecodeIsTheBits : Prop :=
  ∀ (e : Encoded) (i : Instr), decode e = .ok i → i.wellFormed = true ∧ encode i = e

/-- A few words written out from 30_encoding.md R74 and R85 decode to the instruction they stand for. -/
def Obligations.WordsWrittenOutDecode : Prop :=
  decode (.command 0b0001000000000000#16 []) = .ok (.start 0 0 []) ∧
  decode (.command 0b0011000001000000#16 []) = .ok (.closeCh 1 0 []) ∧
  decode (.command 0b0101111111000010#16 []) = .ok (.read 63 2 []) ∧
  decode (.frame 0b00000111#8 0b00111111#8 []) = .ok (.rxSabm 1 true true []) ∧
  decode (.frame 0b00001001#8 0b11101111#8 [0x41#8]) = .ok (.rxUih 2 false false [0x41#8]) ∧
  decode (.frame 0b00000010#8 0b11101111#8 []) = .error .addressNotExtended

/-! ### The frame check sequence and the encoder -/

/-- One byte of the register update is one look-up in CRCTAB (40_crc.md R101, R107). -/
def Obligations.CrcStepIsOneTableLookUp : Prop :=
  ∀ c b : Byte, crcStep c b = crcTabAt (c ^^^ b)

/-- 40_crc.md R106: over any sequence followed by its FCS the register ends at 0xCF, and only its FCS does that. -/
def Obligations.ResidueDecidesTheFcs : Prop :=
  (∀ bytes : List Byte, crcRegister (bytes ++ [fcs bytes]) = 0xCF#8) ∧
  (∀ (bytes : List Byte) (f : Byte), fcs bytes = f ↔ crcRegister (bytes ++ [f]) = 0xCF#8)

/-- After stuffing a body never contains 0x7E (30_encoding.md R71, R78), each escaped byte adds one, and the decoder in
BODY undoes it (30_encoding.md R79): receiving the stuffed bytes adds exactly the bytes to the body it holds, up to
MAXBODY = P_MAXLEN + 5 bytes (42_decoder.md R142). -/
def Obligations.StuffedBytesHoldNoFlag : Prop :=
  (∀ bytes : List Byte, 0x7E#8 ∉ stuff bytes ∧
    (stuff bytes).length = bytes.length + (bytes.filter (fun b => b == 0x7E#8 || b == 0x7D#8)).length) ∧
  (∀ (s : State) (bytes : List Byte), s.link = .up → s.cfg.mode = .advanced → s.dec.dstate = .body →
    s.dec.dbody.length + bytes.length ≤ s.cfg.maxLen + 5 → s.reply = .nothing →
    feed (stuff bytes) s = .next { s with dec := { s.dec with dbody := s.dec.dbody ++ bytes } })

/-- 41_encoder.md R124 in basic mode: a frame the encoder makes, delivered to a decoder in HUNT or ADDR with LINK =
UP, ends in exactly the operation its channel, C/R, control byte and payload select, with the decoder ready in ADDR.
It holds for every control byte, every DLCI up to 61 and every payload up to P_MAXLEN, the flag byte included. -/
def Obligations.BasicFrameIsReceivedAsSent : Prop :=
  ∀ (s : State) (d : Dlci) (cr : Bool) (c : Byte) (payload : List Byte),
    s.link = .up → s.cfg.mode = .basic → s.dec.dstate = .hunt ∨ s.dec.dstate = .addr →
    d.toNat ≤ 61 → payload.length ≤ s.cfg.maxLen → s.cfg.maxLen ≤ 32767 →
    ∃ dec' : Decoder, dec'.dstate = .addr ∧
      feed (encodeFrame s.cfg d cr c payload) s =
        exec (decodeFrame (addressByte d cr) c payload) { s with dec := dec', reply := .nothing }

/-- 41_encoder.md R124 in advanced mode, with and without the length field: the same from HUNT, or from BODY with no
byte of a frame held yet, and the decoder is left in BODY with an empty body. -/
def Obligations.AdvancedFrameIsReceivedAsSent : Prop :=
  ∀ (s : State) (d : Dlci) (cr : Bool) (c : Byte) (payload : List Byte),
    s.link = .up → s.cfg.mode = .advanced →
    s.dec.dstate = .hunt ∨ (s.dec.dstate = .body ∧ s.dec.dbody = []) →
    payload.length ≤ s.cfg.maxLen → s.cfg.maxLen ≤ 32767 →
    ∃ dec' : Decoder, dec'.dstate = .body ∧ dec'.dbody = [] ∧
      feed (encodeFrame s.cfg d cr c payload) s =
        exec (decodeFrame (addressByte d cr) c payload) { s with dec := dec', reply := .nothing }

/-! ### Invariants -/

/-- The reset state meets every invariant. -/
def Obligations.ResetStateMeetsTheInvariant : Prop := State.reset.Inv

/-- RESET from any state, with a configuration in range, answers a state that meets every invariant
(70_reset_and_hazards.md R270, R271). -/
def Obligations.ResetOperationEstablishesTheInvariant : Prop :=
  ∀ s : State, configInRange s.design s.pins = true → ∃ t : State, exec .reset s = .next t ∧ t.Inv

/-- 10_state.md R47, items 1 to 8, over a complete channel table: kept by every step from every state that meets them.
-/
def Obligations.EveryStepKeepsChannelsConsistent : Prop :=
  ∀ s t : State, s.channelsConsistent → step s = .next t → t.channelsConsistent

/-- DSTATE stays a state of the framing mode and the holding registers stay within R39 and R142 (10_state.md R38, R39;
20_memory.md R63). -/
def Obligations.EveryStepKeepsDecoderConsistent : Prop :=
  ∀ s t : State, s.decoderConsistent → step s = .next t → t.decoderConsistent

/-- DESYNC stays set exactly while CONSEC_ERR has reached P_DESYNC_THRESHOLD (10_state.md R28, R29). -/
def Obligations.EveryStepKeepsLinkHealthConsistent : Prop :=
  ∀ s t : State, s.linkHealthConsistent → step s = .next t → t.linkHealthConsistent

/-- No buffer passes P_BUFCAP and EVQ never passes P_EVQ (20_memory.md R63). -/
def Obligations.EveryStepKeepsWithinCapacity : Prop :=
  ∀ s t : State, s.withinCapacity → step s = .next t → t.withinCapacity

/-- Every queued record stays one of the kinds of 30_encoding.md R90, for a served channel, with data only on CTRL_RX
(R89). -/
def Obligations.EveryStepKeepsEventsLegal : Prop :=
  ∀ s t : State, s.eventsLegal → step s = .next t → t.eventsLegal

/-- The whole invariant is kept by every step from every state that meets it. -/
def Obligations.EveryStepKeepsTheInvariant : Prop :=
  ∀ s t : State, s.Inv → step s = .next t → t.Inv

/-- From a state that meets the invariant, an input within the block's contract never stops it: the step answers a
next state that meets the invariant (60_exceptions.md R252, 93_implementation_defined.md I9, I32, I34). -/
def Obligations.InputsInContractNeverStopTheBlock : Prop :=
  ∀ (s : State) (e : Input) (rest : List Input), s.Inv → s.pending = e :: rest → s.inputInContract e = true →
    ∃ t : State, step s = .next t ∧ t.Inv ∧ t.pending = rest

/-! ### Rules of the whole machine -/

/-- One step takes the first input and runs the instruction its bits decode to, on the state without that input
(20_memory.md R52). -/
def Obligations.StepRunsTheDecodedInput : Prop :=
  ∀ (s : State) (e : Input) (rest : List Input) (bits : Encoded) (i : Instr),
    s.pending = e :: rest → e.encoded = some bits → decode bits = .ok i →
    step s = exec i { s with pending := rest }

/-- What a step does with what is not an operation of a port: a change of the configuration inputs changes only them
(70_reset_and_hazards.md R272), a foreign write during a session and a refused transmission are faults
(93_implementation_defined.md I32, I34), an operand over 65535 bytes is refused (30_encoding.md R84), and with no
input the block stays as it is (the model's choice, log entry 2). -/
def Obligations.StepTakesEnvironmentEvents : Prop :=
  (∀ (s : State) (p : Cfg) (rest : List Input), s.pending = .setPins p :: rest →
    step s = .next { s with pins := p, pending := rest }) ∧
  (∀ (s : State) (b : Byte) (rest : List Input), s.pending = .foreignWrite b :: rest →
    step s = if s.writing then .fault .foreignWriter else .next { s with pending := rest }) ∧
  (∀ (s : State) (rest : List Input), s.pending = .txRefused :: rest → step s = .fault .transmitNotAccepted) ∧
  (∀ (s : State) (w : CommandWord) (data : List Byte) (rest : List Input), s.pending = .command w data :: rest →
    65535 < data.length → step s = .refused .inputNotPresentable) ∧
  (∀ s : State, s.pending = [] → step s = .next s)

/-- No operation but RESET writes CFG, and none changes the parameters or the inputs still to come (10_state.md R25,
20_memory.md R58, 70_reset_and_hazards.md R272). LINK leaves UP only by LINKDOWN and TEARDOWN, and returns to UP only by
RESET (10_state.md R23). -/
def Obligations.ConfigurationAndLinkChangeOnlyByTheirRules : Prop :=
  ∀ (i : Instr) (s t : State), exec i s = .next t →
    t.design = s.design ∧ t.pins = s.pins ∧ t.pending = s.pending ∧ (i ≠ .reset → t.cfg = s.cfg) ∧
    (t.link ≠ s.link → (i = .reset ∧ t.link = .up) ∨
      (s.link = .up ∧ ∃ data, i = .linkdown 0 0 data ∧ t.link = .down) ∨
      (s.link = .up ∧ ∃ data, i = .teardown 0 0 data ∧ t.link = .dead))

/-- 43_mux_control.md R188: ROLE changes by START to INITIATOR and by an accepted remote SABM on DLCI 0 to RESPONDER, by
RESET to INITIATOR, and nowhere else. A received byte changes it only by completing such a SABM. -/
def Obligations.RoleChangesInTwoPlacesAndReset : Prop :=
  ∀ (i : Instr) (s t : State), exec i s = .next t → t.role ≠ s.role →
    (i = .reset ∧ t.role = .initiator) ∨
    (∃ data, i = .start 0 0 data ∧ s.link = .up ∧ (s.chan 0).state = .closed ∧ t.role = .initiator) ∨
    ((∃ cr pf, s.completes i (.rxSabm 0 cr pf [])) ∧
      s.link = .up ∧ s.cfg.server = true ∧ (s.chan 0).state = .closed ∧ t.role = .responder)

/-- What one operation appends to the transmit stream is a run of whole frames, each one of the Send primitives', and
TX_FRAME_CNT counts each of them (20_memory.md R53, 41_encoder.md R116, R122, R123). -/
def Obligations.TransmitStreamGrowsByWholeFrames : Prop :=
  ∀ (i : Instr) (s t : State), exec i s = .next t →
    ∃ frames : List OutFrame, (∀ f ∈ frames, f.legal s.cfg) ∧
      t.tx = s.tx ++ (frames.map (OutFrame.bytes s.cfg)).flatten ∧
      (i ≠ .reset → (∀ d n data, i ≠ .clrstat d n data) → t.txFrameCnt = satInc^[frames.length] s.txFrameCnt)

/-- The ports other than the receive port do not touch the decoder, but for LINKDOWN, TEARDOWN and RESET, which clear it
(42_decoder.md R155, R156). -/
def Obligations.OnlyReceivedBytesAndLossMoveTheDecoder : Prop :=
  ∀ (i : Instr) (s t : State), exec i s = .next t → t.dec ≠ s.dec →
    (∃ b, i = .rxByte b) ∨
    (t.dec = Decoder.reset ∧ (i = .reset ∨ (∃ data, i = .linkdown 0 0 data) ∨ ∃ data, i = .teardown 0 0 data))

/-- A command that returns a status other than OK makes no other change at all (43_mux_control.md R170, 60_exceptions.md
R246). The codes of the statuses are those of 30_encoding.md R88, so no command returns 8 to 15. -/
def Obligations.RefusedCommandsChangeNothing : Prop :=
  (∀ (i : Instr) (s t : State) (st : Status) (v : ReturnValue), exec i s = .next t →
    t.reply = .command st v → st ≠ .ok → t = { s with reply := .command st .nothing }) ∧
  (∀ (st : Status) (code : BitVec 4), statusCode st = code ↔
    (st, code) ∈ [(.ok, 0), (.illegal, 1), (.link, 2), (.notStarted, 3), (.noFree, 4), (.badDlci, 5), (.state, 6),
      (.tooLong, 7)])

/-- Events leave EVQ only by EVPOP and RESET. Every other operation appends behind the events of earlier ones
(20_memory.md R54, 60_exceptions.md R253). -/
def Obligations.EventsAreOnlyAppended : Prop :=
  ∀ (i : Instr) (s t : State), exec i s = .next t → i ≠ .evPop → i ≠ .reset →
    s.evq <+: t.evq

/-- No operation but CLRSTAT and RESET lowers a counter or clears EVOVF (10_state.md R27, R30; 20_memory.md R62). -/
def Obligations.CountersFallOnlyByClrstatAndReset : Prop :=
  ∀ (i : Instr) (s t : State), exec i s = .next t → i ≠ .reset → (∀ d n data, i ≠ .clrstat d n data) →
    s.fcsErrCnt ≤ t.fcsErrCnt ∧ s.frameErrCnt ≤ t.frameErrCnt ∧ s.desyncByteCnt ≤ t.desyncByteCnt ∧
    s.rxFrameCnt ≤ t.rxFrameCnt ∧ s.dropCnt ≤ t.dropCnt ∧ s.txFrameCnt ≤ t.txFrameCnt ∧
    (s.evOvf = true → t.evOvf = true)

/-- A buffer keeps its bytes in arrival order (10_state.md R37, 20_memory.md R55). READ takes from the front of the
channel it names. TEARDOWN and RESET may empty it. OPEN empties the channel it allocates and a received SABM the channel
it opens: each was Closed before. Every other operation only appends. -/
def Obligations.BuffersKeepArrivalOrder : Prop :=
  ∀ (i : Instr) (s t : State), exec i s = .next t → ∀ d : Nat,
    (s.chan d).buf <+: (t.chan d).buf ∨
    ((∃ (e : Dlci) (n : Arg) (data : List Byte), e.toNat = d ∧ i = .read e n data) ∧
      (t.chan d).buf <:+ (s.chan d).buf) ∨
    ((t.chan d).buf = [] ∧
      ((∃ data, i = .teardown 0 0 data) ∨ i = .reset ∨
        ((∃ data, i = .openCh 0 0 data) ∧ t.reply = .command .ok (.dlci (BitVec.ofNat 6 d)) ∧
          (s.chan d).state = .closed ∧ (t.chan d).state = .opening) ∨
        ((∃ (e : Dlci) (cr pf : Bool), e.toNat = d ∧ s.completes i (.rxSabm e cr pf [])) ∧
          (s.chan d).state = .closed ∧ (t.chan d).state = .opened ∧ (t.chan d).remote = true)))

/-- 30_encoding.md R86: a reserved operation code, a must-be-zero field that is not 0, a TXCTRL without a legal type
byte: status ILLEGAL, and no state change, no frame, no event, in every state. -/
def Obligations.IllegalEncodingsReturnIllegal : Prop :=
  ∀ (i : Instr) (s : State), illegalEncoding i = true →
    exec i s = .next { s with reply := .command .illegal .nothing }

/-! ### Commands -/

/-- 44_data_path.md R213, whole. -/
def Obligations.NopHasNoEffect : Prop :=
  ∀ (s : State) (d : Dlci) (n : Arg) (data : List Byte),
    exec (.nop d n data) s =
      .next { s with reply := .command (if d = 0 ∧ n = 0 then .ok else .illegal) .nothing }

/-- 43_mux_control.md R171: every check of START in its order, and what it does when all pass. -/
def Obligations.StartOpensTheControlChannel : Prop :=
  (∀ (s : State) (d : Dlci) (n : Arg) (data : List Byte), d ≠ 0 ∨ n ≠ 0 →
    exec (.start d n data) s = .next { s with reply := .command .illegal .nothing }) ∧
  (∀ (s : State) (data : List Byte), s.link ≠ .up →
    exec (.start 0 0 data) s = .next { s with reply := .command .link .nothing }) ∧
  (∀ (s : State) (data : List Byte), s.link = .up → (s.chan 0).state ≠ .closed →
    exec (.start 0 0 data) s = .next { s with reply := .command .state .nothing }) ∧
  (∀ (s : State) (data : List Byte), s.link = .up → (s.chan 0).state = .closed →
    exec (.start 0 0 data) s = .next
      { s with
        role := .initiator
        ch := s.ch.set 0 { s.chan 0 with state := .opening, att := 1, tmr := true, remote := false }
        tx := s.tx ++ encodeFrame s.cfg 0 true 0x3F#8 []
        txFrameCnt := satInc s.txFrameCnt
        writing := true
        reply := .command .ok .nothing })

/-- 43_mux_control.md R172: every check of OPEN in its order, and what it does with the lowest Closed logical channel.
-/
def Obligations.OpenTakesTheLowestClosedChannel : Prop :=
  (∀ (s : State) (d : Dlci) (n : Arg) (data : List Byte), d ≠ 0 ∨ n ≠ 0 →
    exec (.openCh d n data) s = .next { s with reply := .command .illegal .nothing }) ∧
  (∀ (s : State) (data : List Byte), s.link ≠ .up →
    exec (.openCh 0 0 data) s = .next { s with reply := .command .link .nothing }) ∧
  (∀ (s : State) (data : List Byte), s.link = .up → (s.chan 0).state ≠ .opened →
    exec (.openCh 0 0 data) s = .next { s with reply := .command .notStarted .nothing }) ∧
  (∀ (s : State) (data : List Byte), s.link = .up → (s.chan 0).state = .opened →
    (∀ d, 1 ≤ d → d ≤ s.cfg.nch → (s.chan d).state ≠ .closed) →
    exec (.openCh 0 0 data) s = .next { s with reply := .command .noFree .nothing }) ∧
  (∀ (s : State) (data : List Byte) (e : Nat), s.link = .up → (s.chan 0).state = .opened →
    1 ≤ e → e ≤ s.cfg.nch → (s.chan e).state = .closed →
    (∀ d, 1 ≤ d → d < e → (s.chan d).state ≠ .closed) →
    exec (.openCh 0 0 data) s = .next
      { s with
        ch := s.ch.set e
          { state := .opening, att := 1, tmr := true, remote := false, ovf := false, buf := [] }
        tx := s.tx ++ encodeFrame s.cfg (BitVec.ofNat 6 e) s.cmdCR 0x3F#8 []
        txFrameCnt := satInc s.txFrameCnt
        writing := true
        reply := .command .ok (.dlci (BitVec.ofNat 6 e)) })

/-- 43_mux_control.md R173: every check of CLOSE in its order, and what it does when all pass. -/
def Obligations.CloseSendsDiscOnAnOpenChannel : Prop :=
  (∀ (s : State) (d : Dlci) (n : Arg) (data : List Byte), n ≠ 0 →
    exec (.closeCh d n data) s = .next { s with reply := .command .illegal .nothing }) ∧
  (∀ (s : State) (d : Dlci) (data : List Byte), s.link = .dead →
    exec (.closeCh d 0 data) s = .next { s with reply := .command .link .nothing }) ∧
  (∀ (s : State) (d : Dlci) (data : List Byte), s.link ≠ .dead → s.cfg.nch < d.toNat →
    exec (.closeCh d 0 data) s = .next { s with reply := .command .badDlci .nothing }) ∧
  (∀ (s : State) (d : Dlci) (data : List Byte), s.link = .down → d.toNat ≤ s.cfg.nch →
    exec (.closeCh d 0 data) s = .next { s with reply := .command .ok .nothing }) ∧
  (∀ (s : State) (d : Dlci) (data : List Byte), s.link = .up → d.toNat ≤ s.cfg.nch →
    (s.chan d.toNat).state ≠ .opened ∨ (d = 0 ∧ ∃ e, 1 ≤ e ∧ e ≤ s.cfg.nch ∧ (s.chan e).state ≠ .closed) →
    exec (.closeCh d 0 data) s = .next { s with reply := .command .state .nothing }) ∧
  (∀ (s : State) (d : Dlci) (data : List Byte), s.link = .up → d.toNat ≤ s.cfg.nch →
    (s.chan d.toNat).state = .opened →
    (d = 0 → ∀ e, 1 ≤ e → e ≤ s.cfg.nch → (s.chan e).state = .closed) →
    exec (.closeCh d 0 data) s = .next
      { s with
        ch := s.ch.set d.toNat
          { s.chan d.toNat with state := .closing, att := 1, tmr := true, remote := false }
        tx := s.tx ++ encodeFrame s.cfg d s.cmdCR 0x53#8 []
        txFrameCnt := satInc s.txFrameCnt
        writing := true
        reply := .command .ok .nothing })

/-- 43_mux_control.md R174: the checks of TIMEOUT, the timer that is not armed, the two resends of an open, the
failure of the third, and the close that the first TIMEOUT completes. What closing the channel does is
`State.closeWith`, which ClosingAChannelAndTheCascade states. The last two clauses are the rule's cases that no run
reaches (10_state.md R47). -/
def Obligations.TimeoutResendsOrFails : Prop :=
  (∀ (s : State) (d : Dlci) (n : Arg) (data : List Byte), n ≠ 0 →
    exec (.timeout d n data) s = .next { s with reply := .command .illegal .nothing }) ∧
  (∀ (s : State) (d : Dlci) (data : List Byte), s.cfg.nch < d.toNat →
    exec (.timeout d 0 data) s = .next { s with reply := .command .badDlci .nothing }) ∧
  (∀ (s : State) (d : Dlci) (data : List Byte), d.toNat ≤ s.cfg.nch → (s.chan d.toNat).tmr = false →
    exec (.timeout d 0 data) s = .next { s with reply := .command .ok .nothing }) ∧
  (∀ (s : State) (d : Dlci) (data : List Byte), d.toNat ≤ s.cfg.nch → (s.chan d.toNat).tmr = true →
    (s.chan d.toNat).state = .opening → (s.chan d.toNat).att.toNat < 3 →
    exec (.timeout d 0 data) s = .next
      { s with
        ch := s.ch.set d.toNat { s.chan d.toNat with att := (s.chan d.toNat).att + 1 }
        tx := s.tx ++ encodeFrame s.cfg d s.cmdCR 0x3F#8 []
        txFrameCnt := satInc s.txFrameCnt
        writing := true
        reply := .command .ok .nothing }) ∧
  (∀ (s : State) (d : Dlci) (data : List Byte), d.toNat ≤ s.cfg.nch → (s.chan d.toNat).tmr = true →
    (s.chan d.toNat).state = .opening → (s.chan d.toNat).att.toNat = 3 →
    exec (.timeout d 0 data) s =
      .next { s.closeWith d.toNat .openFail 0 with reply := .command .ok .nothing }) ∧
  (∀ (s : State) (d : Dlci) (data : List Byte), d.toNat ≤ s.cfg.nch → (s.chan d.toNat).tmr = true →
    (s.chan d.toNat).state = .closing → 1 ≤ (s.chan d.toNat).att.toNat →
    exec (.timeout d 0 data) s =
      .next { s.closeWith d.toNat .closeTimeout 0 with reply := .command .ok .nothing }) ∧
  (∀ (s : State) (d : Dlci) (data : List Byte), d.toNat ≤ s.cfg.nch → (s.chan d.toNat).tmr = true →
    (s.chan d.toNat).state = .closing → (s.chan d.toNat).att.toNat = 0 →
    exec (.timeout d 0 data) s = .next
      { s with
        ch := s.ch.set d.toNat { s.chan d.toNat with att := 1 }
        tx := s.tx ++ encodeFrame s.cfg d s.cmdCR 0x53#8 []
        txFrameCnt := satInc s.txFrameCnt
        writing := true
        reply := .command .ok .nothing }) ∧
  (∀ (s : State) (d : Dlci) (data : List Byte), d.toNat ≤ s.cfg.nch →
    (s.chan d.toNat).state = .closed ∨ (s.chan d.toNat).state = .opened →
    exec (.timeout d 0 data) s = .next { s with reply := .command .ok .nothing })

/-- 43_mux_control.md R177, R178: closing a channel. A logical channel alone becomes Closed, keeping buffer and ovf,
and its event is raised. When CH[0] closes, every logical channel becomes Closed with it, and the events of those that
were not Closed follow CH[0]'s own in ascending order. No frame is sent and nothing else changes. -/
def Obligations.ClosingAChannelAndTheCascade : Prop :=
  (∀ (s : State) (d : Nat) (kind : EventKind) (reason : Byte), d ≠ 0 →
    s.closeWith d kind reason =
      { s with
        ch := s.ch.set d { s.chan d with state := .closed, tmr := false, att := 0, remote := false }
        evq := if s.evqFull then s.evq else s.evq ++ [⟨eventKindCode kind, BitVec.ofNat 6 d, reason, []⟩]
        evOvf := s.evOvf || s.evqFull }) ∧
  (∀ (s : State) (kind : EventKind) (reason : Byte), s.tableComplete → s.withinCapacity →
    let news := ⟨eventKindCode kind, 0, reason, []⟩ :: (List.range' 1 s.cfg.nch).filterMap (lossRecord 3 s)
    let t := s.closeWith 0 kind reason
    (∀ d, d ≤ s.cfg.nch → d = 0 ∨ (s.chan d).state ≠ .closed →
      t.chan d = { s.chan d with state := .closed, tmr := false, att := 0, remote := false }) ∧
    (∀ d, d ≠ 0 → (s.chan d).state = .closed → t.chan d = s.chan d) ∧
    t.tableComplete ∧
    t.evq = queued s.design.evqDepth s.evq news ∧
    t.evOvf = (s.evOvf || discards s.design.evqDepth s.evq news) ∧
    t = { s with ch := t.ch, evq := t.evq, evOvf := t.evOvf })

/-- 43_mux_control.md R175: LINKDOWN. Unless LINK = UP it does nothing. Else every channel becomes Closed, keeping
buffer and ovf, one event for each that was not, logical channels ascending and CH[0] last; the decoder is reset; no
frame is sent. -/
def Obligations.LinkdownClosesEveryChannel : Prop :=
  (∀ (s : State) (d : Dlci) (n : Arg) (data : List Byte), d ≠ 0 ∨ n ≠ 0 →
    exec (.linkdown d n data) s = .next { s with reply := .command .illegal .nothing }) ∧
  (∀ (s : State) (data : List Byte), s.link ≠ .up →
    exec (.linkdown 0 0 data) s = .next { s with reply := .command .ok .nothing }) ∧
  (∀ (s : State) (data : List Byte), s.tableComplete → s.withinCapacity → s.link = .up →
    let news := (List.range' 1 s.cfg.nch ++ [0]).filterMap (lossRecord 2 s)
    ∃ t : State, exec (.linkdown 0 0 data) s = .next t ∧
      t.link = .down ∧ t.dec = Decoder.reset ∧ t.reply = .command .ok .nothing ∧ t.writing = false ∧
      (∀ d, d ≤ s.cfg.nch →
        t.chan d = { s.chan d with state := .closed, tmr := false, att := 0, remote := false }) ∧
      t.tableComplete ∧
      t.evq = queued s.design.evqDepth s.evq news ∧
      t.evOvf = (s.evOvf || discards s.design.evqDepth s.evq news) ∧
      t = { s with link := t.link, dec := t.dec, reply := t.reply, writing := t.writing, ch := t.ch,
                   evq := t.evq, evOvf := t.evOvf })

/-- 43_mux_control.md R176: TEARDOWN. DISC on each Open channel, one event for each that was not Closed, logical
channels ascending and CH[0] last; every channel ends Closed and empty, LINK DEAD and the decoder reset. -/
def Obligations.TeardownDisconnectsAndKillsTheBlock : Prop :=
  (∀ (s : State) (d : Dlci) (n : Arg) (data : List Byte), d ≠ 0 ∨ n ≠ 0 →
    exec (.teardown d n data) s = .next { s with reply := .command .illegal .nothing }) ∧
  (∀ (s : State) (data : List Byte), s.link ≠ .up →
    exec (.teardown 0 0 data) s = .next { s with reply := .command .link .nothing }) ∧
  (∀ (s : State) (data : List Byte), s.tableComplete → s.withinCapacity → s.link = .up →
    let order := List.range' 1 s.cfg.nch ++ [0]
    let told := order.filter (fun d => (s.chan d).state == .opened)
    ∃ t : State, exec (.teardown 0 0 data) s = .next t ∧
      t.link = .dead ∧ t.dec = Decoder.reset ∧ t.reply = .command .ok .nothing ∧ t.writing = false ∧
      (∀ d, d ≤ s.cfg.nch → t.chan d = Channel.reset) ∧ t.tableComplete ∧
      t.evq = queued s.design.evqDepth s.evq (order.filterMap (lossRecord 4 s)) ∧
      t.evOvf = (s.evOvf || discards s.design.evqDepth s.evq (order.filterMap (lossRecord 4 s))) ∧
      t.tx = s.tx ++ (told.map (fun d => encodeFrame s.cfg (BitVec.ofNat 6 d) s.cmdCR 0x53#8 [])).flatten ∧
      t.txFrameCnt = satInc^[told.length] s.txFrameCnt ∧
      t = { s with link := t.link, dec := t.dec, reply := t.reply, writing := t.writing, ch := t.ch,
                   evq := t.evq, evOvf := t.evOvf, tx := t.tx, txFrameCnt := t.txFrameCnt })

/-- 44_data_path.md R210: every check of WRITE in its order, and the UIH frames it sends: their payloads are the data in
order, every one but the last full. -/
def Obligations.WriteSendsTheDataInFullFrames : Prop :=
  (∀ (s : State) (d : Dlci) (n : Arg) (data : List Byte), n ≠ 0 →
    exec (.write d n data) s = .next { s with reply := .command .illegal .nothing }) ∧
  (∀ (s : State) (d : Dlci) (data : List Byte), s.link ≠ .up →
    exec (.write d 0 data) s = .next { s with reply := .command .link .nothing }) ∧
  (∀ (s : State) (d : Dlci) (data : List Byte), s.link = .up → d.toNat = 0 ∨ s.cfg.nch < d.toNat →
    exec (.write d 0 data) s = .next { s with reply := .command .badDlci .nothing }) ∧
  (∀ (s : State) (d : Dlci) (data : List Byte), s.link = .up → 1 ≤ d.toNat → d.toNat ≤ s.cfg.nch →
    (s.chan d.toNat).state ≠ .opened →
    exec (.write d 0 data) s = .next { s with reply := .command .state .nothing }) ∧
  (∀ (s : State) (d : Dlci) (data : List Byte), s.link = .up → 1 ≤ d.toNat → d.toNat ≤ s.cfg.nch →
    (s.chan d.toNat).state = .opened → 1 ≤ s.cfg.maxLen →
    ∃ payloads : List (List Byte), payloads.flatten = data ∧
      (∀ p ∈ payloads, 1 ≤ p.length ∧ p.length ≤ s.cfg.maxLen) ∧
      (∀ p ∈ payloads.dropLast, p.length = s.cfg.maxLen) ∧
      exec (.write d 0 data) s = .next
        { s with
          tx := s.tx ++ (payloads.map (encodeFrame s.cfg d s.cmdCR 0xEF#8)).flatten
          txFrameCnt := satInc^[payloads.length] s.txFrameCnt
          writing := s.writing || !payloads.isEmpty
          reply := .command .ok .nothing })

/-- 44_data_path.md R211: every check of READ in its order, and the bytes it removes from the front: up to n of them, or
all for n = 0, however many the buffer holds (30_encoding.md R87 against it there: log entry 4). The last clause: wherever
P_BUFCAP is finite the bytes removed are at most the 65535 of R87. -/
def Obligations.ReadRemovesFromTheFront : Prop :=
  (∀ (s : State) (d : Dlci) (n : Arg) (data : List Byte), s.link = .dead →
    exec (.read d n data) s = .next { s with reply := .command .link .nothing }) ∧
  (∀ (s : State) (d : Dlci) (n : Arg) (data : List Byte), s.link ≠ .dead → d.toNat = 0 ∨ s.cfg.nch < d.toNat →
    exec (.read d n data) s = .next { s with reply := .command .badDlci .nothing }) ∧
  (∀ (s : State) (d : Dlci) (n : Arg) (data : List Byte), s.link ≠ .dead → 1 ≤ d.toNat →
    d.toNat ≤ s.cfg.nch →
    ∃ front back : List Byte, front ++ back = (s.chan d.toNat).buf ∧
      front.length = (if n.toNat = 0 then (s.chan d.toNat).buf.length else min n.toNat (s.chan d.toNat).buf.length) ∧
      exec (.read d n data) s = .next
        { s with
          ch := s.ch.set d.toNat { s.chan d.toNat with buf := back }
          reply := .command .ok (.bytes front) }) ∧
  (∀ (s t : State) (d : Dlci) (n : Arg) (data front : List Byte), s.configured → s.withinCapacity →
    s.design.bufCap ≠ none → exec (.read d n data) s = .next t → t.reply = .command .ok (.bytes front) →
    front.length ≤ 65535)

/-- 44_data_path.md R212: every check of TXCTRL in its order, and the message it sends on DLCI 0. -/
def Obligations.TxctrlSendsOneControlMessage : Prop :=
  (∀ (s : State) (d : Dlci) (n : Arg) (data : List Byte),
    d ≠ 0 ∨ n ≠ 0 ∨ data = [] ∨ (data.headD 0).getLsbD 0 = false →
    exec (.txctrl d n data) s = .next { s with reply := .command .illegal .nothing }) ∧
  (∀ (s : State) (t : Byte) (value : List Byte), t.getLsbD 0 = true → s.link ≠ .up →
    exec (.txctrl 0 0 (t :: value)) s = .next { s with reply := .command .link .nothing }) ∧
  (∀ (s : State) (t : Byte) (value : List Byte), t.getLsbD 0 = true → s.link = .up → (s.chan 0).state ≠ .opened →
    exec (.txctrl 0 0 (t :: value)) s = .next { s with reply := .command .notStarted .nothing }) ∧
  (∀ (s : State) (t : Byte) (value : List Byte), t.getLsbD 0 = true → s.link = .up → (s.chan 0).state = .opened →
    32767 < value.length ∨ s.cfg.maxLen < 1 + (lenField value.length).length + value.length →
    exec (.txctrl 0 0 (t :: value)) s = .next { s with reply := .command .tooLong .nothing }) ∧
  (∀ (s : State) (t : Byte) (value : List Byte), t.getLsbD 0 = true → s.link = .up → (s.chan 0).state = .opened →
    value.length ≤ 32767 → 1 + (lenField value.length).length + value.length ≤ s.cfg.maxLen →
    exec (.txctrl 0 0 (t :: value)) s = .next
      { s with
        tx := s.tx ++ encodeFrame s.cfg 0 s.cmdCR 0xEF#8 ([t] ++ lenField value.length ++ value)
        txFrameCnt := satInc s.txFrameCnt
        writing := true
        reply := .command .ok .nothing })

/-- 44_data_path.md R214: CLRSTAT clears the statistics and every ovf, and nothing else. -/
def Obligations.ClrstatClearsTheStatistics : Prop :=
  (∀ (s : State) (d : Dlci) (n : Arg) (data : List Byte), d ≠ 0 ∨ n ≠ 0 →
    exec (.clrstat d n data) s = .next { s with reply := .command .illegal .nothing }) ∧
  (∀ (s : State) (data : List Byte),
    exec (.clrstat 0 0 data) s = .next
      { s with
        fcsErrCnt := 0, frameErrCnt := 0, desyncByteCnt := 0, rxFrameCnt := 0, dropCnt := 0, txFrameCnt := 0,
        consecErr := 0, desync := false, evOvf := false,
        ch := s.ch.map (fun c => { c with ovf := false }),
        reply := .command .ok .nothing })

/-! ### The other ports -/

/-- REGREAD of every address, with the layouts of 10_state.md R25 to R30 and R43 written as sums, and no other change
(44_data_path.md R215, 20_memory.md R62). -/
def Obligations.RegisterReadsReturnTheLayouts : Prop :=
  ∀ s : State, s.configured →
    (exec (.regRead 0x00) s = .next { s with reply := .register (BitVec.ofNat 32
      ((match s.cfg.mode with | .basic => 0 | .advanced => 1) + (match s.cfg.advLen with | .present => 2 | .absent => 0) +
       (if s.cfg.server then 4 else 0) + 8 * s.cfg.nch + 65536 * s.cfg.maxLen)) }) ∧
    (exec (.regRead 0x01) s = .next { s with reply := .register (BitVec.ofNat 32
      ((match s.link with | .up => 0 | .down => 1 | .dead => 2) + (match s.role with | .initiator => 0 | .responder => 4) +
       (if s.desync then 8 else 0) + (if s.evOvf then 16 else 0) + (if s.evq = [] then 0 else 32) +
       256 * (match s.dec.dstate with
        | .hunt => 0 | .addr => 1 | .ctrl => 2 | .len1 => 3 | .len2 => 4 | .data => 5 | .fcs => 6 | .close => 7
        | .body => 8 | .esc => 9))) }) ∧
    (∀ (a : Byte) (c : BitVec 16),
      (a, c) ∈ [(0x02, s.fcsErrCnt), (0x03, s.frameErrCnt), (0x04, s.desyncByteCnt), (0x05, s.rxFrameCnt),
        (0x06, s.dropCnt), (0x07, s.txFrameCnt), (0x08, s.consecErr)] →
      exec (.regRead a) s = .next { s with reply := .register (BitVec.ofNat 32 c.toNat) }) ∧
    (exec (.regRead 0x09) s = .next { s with reply := .register (BitVec.ofNat 32 (min s.evq.length 65535)) }) ∧
    (∀ d, d ≤ s.cfg.nch →
      exec (.regRead (BitVec.ofNat 8 (0x40 + d))) s = .next { s with reply := .register (BitVec.ofNat 32
        ((match (s.chan d).state with | .closed => 0 | .opening => 1 | .opened => 2 | .closing => 3) +
         4 * (s.chan d).att.toNat + (if (s.chan d).tmr then 16 else 0) + (if (s.chan d).remote then 32 else 0) +
         (if (s.chan d).ovf then 64 else 0) + 65536 * min (s.chan d).buf.length 65535)) })

/-- 10_state.md R44: a read of an address that R42 does not list returns 0 and has no effect. -/
def Obligations.UnlistedAddressesReadZero : Prop :=
  ∀ (s : State) (a : Byte), 0x0A ≤ a.toNat → a.toNat < 0x40 ∨ 0x40 + s.cfg.nch < a.toNat →
    exec (.regRead a) s = .next { s with reply := .register 0 }

/-- 44_data_path.md R216, whole: EVPOP from an empty queue and from one that holds a record. -/
def Obligations.EvpopReturnsTheOldestEvent : Prop :=
  (∀ s : State, s.evq = [] → exec .evPop s = .next { s with reply := .event false ⟨0, 0, 0, []⟩ }) ∧
  (∀ (s : State) (r : EventRecord) (rest : List EventRecord), s.evq = r :: rest →
    exec .evPop s = .next { s with evq := rest, reply := .event true r })

/-- 70_reset_and_hazards.md R270, R271: RESET samples the configuration inputs into CFG and sets every field to its
reset value, in every state. It emits nothing. The model's own fields: no answer, the stream given back, inputs to
come kept. -/
def Obligations.ResetSetsEveryField : Prop :=
  ∀ s : State, configInRange s.design s.pins = true →
    exec .reset s = .next
      { design := s.design, pins := s.pins, cfg := s.pins, link := .up, role := .initiator,
        fcsErrCnt := 0, frameErrCnt := 0, desyncByteCnt := 0, rxFrameCnt := 0, dropCnt := 0, txFrameCnt := 0,
        consecErr := 0, desync := false, evOvf := false,
        ch := List.replicate (s.pins.nch + 1)
          { state := .closed, att := 0, tmr := false, remote := false, ovf := false, buf := [] },
        dec := { dstate := .hunt, da := 0, dc := 0, dl0 := 0, dl1 := none, dl := 0, dpl := [], df := 0, dbody := [] },
        evq := [], tx := s.tx, reply := .nothing, writing := false, pending := s.pending }

/-- RESET refuses a configuration outside the ranges of 00_scope.md R6 to R15. The model's choice, log entry 7: the
spec does not say what the block does with one (70_reset_and_hazards.md R272). -/
def Obligations.ResetRefusesAConfigurationOutOfRange : Prop :=
  ∀ s : State, configInRange s.design s.pins = false → exec .reset s = .refused .configurationOutOfRange

/-! ### Received bytes -/

/-- 42_decoder.md R130: a byte received while LINK is not UP changes nothing. -/
def Obligations.BytesAreIgnoredWhileTheLinkIsNotUp : Prop :=
  ∀ (s : State) (b : Byte), s.link ≠ .up → exec (.rxByte b) s = .next { s with reply := .nothing }

/-- 42_decoder.md R131, R132, R133, R136, R137: what one byte does in basic mode in HUNT, ADDR, CTRL, DATA and FCS. -/
def Obligations.BasicByteBeforeTheClosingFlag : Prop :=
  ∀ (s : State) (b : Byte), s.link = .up → s.cfg.mode = .basic →
    (s.dec.dstate = .hunt → exec (.rxByte b) s = .next
      (if b = 0xF9#8 then { s with dec := { s.dec with dstate := .addr }, reply := .nothing }
       else { s with desyncByteCnt := satInc s.desyncByteCnt, reply := .nothing })) ∧
    (s.dec.dstate = .addr → exec (.rxByte b) s = .next
      (if b = 0xF9#8 then { s with reply := .nothing }
       else { s with dec := { s.dec with da := b, dstate := .ctrl }, reply := .nothing })) ∧
    (s.dec.dstate = .ctrl → exec (.rxByte b) s = .next
      { s with dec := { s.dec with dc := b, dstate := .len1 }, reply := .nothing }) ∧
    (s.dec.dstate = .data → exec (.rxByte b) s = .next
      { s with
        dec := { s.dec with
          dpl := s.dec.dpl ++ [b]
          dstate := if s.dec.dpl.length + 1 = s.dec.dl.toNat then .fcs else .data }
        reply := .nothing }) ∧
    (s.dec.dstate = .fcs → exec (.rxByte b) s = .next
      { s with dec := { s.dec with df := b, dstate := .close }, reply := .nothing })

/-- 42_decoder.md R134, R135: the length bytes of basic mode. A length over P_MAXLEN is the frame error LENGTH. -/
def Obligations.BasicLengthBytes : Prop :=
  ∀ (s : State) (b : Byte), s.link = .up → s.cfg.mode = .basic →
    (s.dec.dstate = .len1 → b.getLsbD 0 = false → exec (.rxByte b) s = .next
      { s with dec := { s.dec with dl0 := b, dl1 := none, dpl := [], dstate := .len2 }, reply := .nothing }) ∧
    (s.dec.dstate = .len1 → b.getLsbD 0 = true → b.toNat / 2 ≤ s.cfg.maxLen → exec (.rxByte b) s = .next
      { s with
        dec := { s.dec with
          dl0 := b, dl1 := none, dpl := [], dl := BitVec.ofNat 15 (b.toNat / 2)
          dstate := if b.toNat / 2 = 0 then .fcs else .data }
        reply := .nothing }) ∧
    (s.dec.dstate = .len1 → b.getLsbD 0 = true → s.cfg.maxLen < b.toNat / 2 → exec (.rxByte b) s = .next
      { s.frameError .length with
        dec := { s.dec with dl0 := b, dl1 := none, dpl := [], dl := BitVec.ofNat 15 (b.toNat / 2), dstate := .hunt }
        reply := .nothing }) ∧
    (s.dec.dstate = .len2 → s.dec.dl0.toNat / 2 + 128 * b.toNat ≤ s.cfg.maxLen → exec (.rxByte b) s = .next
      { s with
        dec := { s.dec with
          dl1 := some b, dl := BitVec.ofNat 15 (s.dec.dl0.toNat / 2 + 128 * b.toNat)
          dstate := if s.dec.dl0.toNat / 2 + 128 * b.toNat = 0 then .fcs else .data }
        reply := .nothing }) ∧
    (s.dec.dstate = .len2 → s.cfg.maxLen < s.dec.dl0.toNat / 2 + 128 * b.toNat → exec (.rxByte b) s = .next
      { s.frameError .length with
        dec := { s.dec with
          dl1 := some b, dl := BitVec.ofNat 15 (s.dec.dl0.toNat / 2 + 128 * b.toNat), dstate := .hunt }
        reply := .nothing })

/-- 42_decoder.md R138, R145, R146, R152: the byte after the FCS in basic mode. A flag ends the frame: a wrong FCS and
EA = 0 are frame errors, and a good frame runs the operation its control byte selects. Any other byte is NOCLOSE. -/
def Obligations.BasicClosingByteRunsTheFrame : Prop :=
  ∀ s : State, s.link = .up → s.cfg.mode = .basic → s.dec.dstate = .close →
    let hdr := [s.dec.da, s.dec.dc, s.dec.dl0] ++ s.dec.dl1.toList
    let idle := { s with dec := { s.dec with dstate := .addr }, reply := .nothing }
    (fcs (covered hdr s.dec.dc s.dec.dpl) ≠ s.dec.df → exec (.rxByte 0xF9#8) s = .next (idle.frameError .fcs)) ∧
    (fcs (covered hdr s.dec.dc s.dec.dpl) = s.dec.df → s.dec.da.getLsbD 0 = false →
      exec (.rxByte 0xF9#8) s = .next (idle.frameError .badAddr)) ∧
    (fcs (covered hdr s.dec.dc s.dec.dpl) = s.dec.df → s.dec.da.getLsbD 0 = true →
      exec (.rxByte 0xF9#8) s = exec (decodeFrame s.dec.da s.dec.dc s.dec.dpl) idle) ∧
    (∀ b : Byte, b ≠ 0xF9#8 → exec (.rxByte b) s = .next
      { s.frameError .noClose with dec := { s.dec with dstate := .hunt }, reply := .nothing })

/-- 42_decoder.md R139, R140, R141, R142: what one byte does in advanced mode, but for the flag that ends a body. -/
def Obligations.AdvancedByteInsideABody : Prop :=
  ∀ (s : State) (b : Byte), s.link = .up → s.cfg.mode = .advanced →
    (s.dec.dstate = .hunt → exec (.rxByte b) s = .next
      (if b = 0x7E#8 then { s with dec := { s.dec with dbody := [], dstate := .body }, reply := .nothing }
       else { s with desyncByteCnt := satInc s.desyncByteCnt, reply := .nothing })) ∧
    (s.dec.dstate = .body → b = 0x7E#8 → s.dec.dbody = [] →
      exec (.rxByte b) s = .next { s with reply := .nothing }) ∧
    (s.dec.dstate = .body → b = 0x7D#8 → exec (.rxByte b) s = .next
      { s with dec := { s.dec with dstate := .esc }, reply := .nothing }) ∧
    (s.dec.dstate = .esc → b = 0x7E#8 → exec (.rxByte b) s = .next
      { s.frameError .abort with dec := { s.dec with dbody := [], dstate := .body }, reply := .nothing }) ∧
    (∀ x : Byte, (s.dec.dstate = .body ∧ b ≠ 0x7E#8 ∧ b ≠ 0x7D#8 ∧ x = b) ∨
        (s.dec.dstate = .esc ∧ b ≠ 0x7E#8 ∧ x = b ^^^ 0x20#8) →
      exec (.rxByte b) s = .next
        (if s.dec.dbody.length + 1 ≤ s.cfg.maxLen + 5
         then { s with dec := { s.dec with dbody := s.dec.dbody ++ [x], dstate := .body }, reply := .nothing }
         else { s.frameError .length with dec := { s.dec with dbody := [], dstate := .hunt }, reply := .nothing }))

/-- 42_decoder.md R143, R144, R145, R146, R152: the flag that ends a body in advanced mode, without and with the
length field. -/
def Obligations.AdvancedFlagRunsTheBody : Prop :=
  (∀ (s : State) (body : List Byte), s.link = .up → s.cfg.mode = .advanced → s.cfg.advLen = .absent →
    s.dec.dstate = .body → s.dec.dbody = body → body ≠ [] →
    let idle := { s with dec := { s.dec with dbody := [] }, reply := .nothing }
    (body.length < 3 → exec (.rxByte 0x7E#8) s = .next (idle.frameError .short)) ∧
    (s.cfg.maxLen + 3 < body.length → exec (.rxByte 0x7E#8) s = .next (idle.frameError .length)) ∧
    (∀ (a c f : Byte) (payload : List Byte), body = a :: c :: (payload ++ [f]) → payload.length ≤ s.cfg.maxLen →
      exec (.rxByte 0x7E#8) s =
        if fcs (covered [a, c] c payload) ≠ f then .next (idle.frameError .fcs)
        else if a.getLsbD 0 = false then .next (idle.frameError .badAddr)
        else exec (decodeFrame a c payload) idle)) ∧
  (∀ (s : State) (body : List Byte), s.link = .up → s.cfg.mode = .advanced → s.cfg.advLen = .present →
    s.dec.dstate = .body → s.dec.dbody = body → body ≠ [] →
    let idle := { s with dec := { s.dec with dbody := [] }, reply := .nothing }
    (body.length < 4 ∨ (body.length = 4 ∧ (body.getD 2 0).getLsbD 0 = false) →
      exec (.rxByte 0x7E#8) s = .next (idle.frameError .short)) ∧
    (∀ (a c l0 f : Byte) (payload : List Byte), body = a :: c :: l0 :: (payload ++ [f]) → l0.getLsbD 0 = true →
      exec (.rxByte 0x7E#8) s =
        if s.cfg.maxLen < l0.toNat / 2 ∨ payload.length ≠ l0.toNat / 2 then .next (idle.frameError .length)
        else if fcs (covered [a, c, l0] c payload) ≠ f then .next (idle.frameError .fcs)
        else if a.getLsbD 0 = false then .next (idle.frameError .badAddr)
        else exec (decodeFrame a c payload) idle) ∧
    (∀ (a c l0 l1 f : Byte) (payload : List Byte), body = a :: c :: l0 :: l1 :: (payload ++ [f]) →
      l0.getLsbD 0 = false →
      exec (.rxByte 0x7E#8) s =
        if s.cfg.maxLen < l0.toNat / 2 + 128 * l1.toNat ∨ payload.length ≠ l0.toNat / 2 + 128 * l1.toNat
        then .next (idle.frameError .length)
        else if fcs (covered [a, c, l0, l1] c payload) ≠ f then .next (idle.frameError .fcs)
        else if a.getLsbD 0 = false then .next (idle.frameError .badAddr)
        else exec (decodeFrame a c payload) idle))

/-- 42_decoder.md R150, R151, 60_exceptions.md R250: FrameError counts the frame and raises LINK_HEALTH(1) once, when
CONSEC_ERR reaches the threshold; GoodFrame counts the frame, clears CONSEC_ERR and raises LINK_HEALTH(0) where DESYNC
was set. An event raised while EVQ holds P_EVQ records is discarded and sets EVOVF, and every other change happens all
the same; any other event is appended, with its KIND code of 30_encoding.md R90. -/
def Obligations.FrameErrorsGoodFramesAndEvents : Prop :=
  (∀ (s : State) (kind : FrameErrorKind),
    let consec := satInc s.consecErr
    let rises := s.design.desyncThreshold ≤ consec.toNat ∧ s.desync = false
    let full := s.design.evqDepth = some s.evq.length
    s.frameError kind =
      { s with
        fcsErrCnt := if kind = .fcs then satInc s.fcsErrCnt else s.fcsErrCnt
        frameErrCnt := if kind = .fcs then s.frameErrCnt else satInc s.frameErrCnt
        consecErr := consec
        desync := s.desync || decide (s.design.desyncThreshold ≤ consec.toNat)
        evq := if rises ∧ ¬ full then s.evq ++ [⟨0xA, 0, 1, []⟩] else s.evq
        evOvf := s.evOvf || decide (rises ∧ full) }) ∧
  (∀ s : State,
    let full := s.design.evqDepth = some s.evq.length
    s.goodFrame =
      { s with
        rxFrameCnt := satInc s.rxFrameCnt
        consecErr := 0
        desync := false
        evq := if s.desync = true ∧ ¬ full then s.evq ++ [⟨0xA, 0, 0, []⟩] else s.evq
        evOvf := s.evOvf || decide (s.desync = true ∧ full) }) ∧
  (∀ (s : State) (kind : EventKind) (code : BitVec 4) (d : Dlci) (arg : Byte) (data : List Byte),
    (kind, code) ∈ [(.openOk, 0x1), (.openFail, 0x2), (.closeOk, 0x3), (.closeTimeout, 0x4), (.closed, 0x5),
      (.opened, 0x6), (.dataReady, 0x7), (.overflow, 0x8), (.ctrlRx, 0x9), (.linkHealth, 0xA)] →
    s.event kind d.toNat arg data =
      if s.design.evqDepth = some s.evq.length then { s with evOvf := true }
      else { s with evq := s.evq ++ [⟨code, d, arg, data⟩] })

/-! ### Received frames -/

/-- 42_decoder.md R130, R147, R148, R149, R152: what stops a frame before its own rule. Nothing is received while LINK
is not UP, a DLCI above P_NCH is BADDLCI, a payload on SABM, UA, DM or DISC is PAYLOAD, and a reserved type is
BADTYPE. -/
def Obligations.MalformedFramesAreDropped : Prop :=
  ∀ (s : State) (d : Dlci) (cr pf : Bool) (c : Byte) (payload : List Byte),
    (s.link ≠ .up → ∀ i ∈ [Instr.rxSabm d cr pf payload, .rxUa d cr pf payload, .rxDm d cr pf payload,
        .rxDisc d cr pf payload, .rxUih d cr pf payload, .rxUi d cr pf payload, .rxReserved d cr c payload],
      exec i s = .next { s with reply := .nothing }) ∧
    (s.link = .up → exec (.rxReserved d cr c payload) s = .next { s.frameError .badType with reply := .nothing }) ∧
    (s.link = .up → s.cfg.nch < d.toNat → ∀ i ∈ [Instr.rxSabm d cr pf payload, .rxUa d cr pf payload,
        .rxDm d cr pf payload, .rxDisc d cr pf payload, .rxUih d cr pf payload, .rxUi d cr pf payload],
      exec i s = .next { s.frameError .badDlci with reply := .nothing }) ∧
    (s.link = .up → d.toNat ≤ s.cfg.nch → payload ≠ [] → ∀ i ∈ [Instr.rxSabm d cr pf payload, .rxUa d cr pf payload,
        .rxDm d cr pf payload, .rxDisc d cr pf payload],
      exec i s = .next { s.frameError .payload with reply := .nothing })

/-- 43_mux_control.md R180 to R183: a good SABM in each state of its channel. `g` is the state after GoodFrame. -/
def Obligations.SabmIsAnsweredInEveryState : Prop :=
  ∀ (s : State) (d : Dlci) (cr pf : Bool), s.link = .up → d.toNat ≤ s.cfg.nch →
    let g := s.goodFrame
    let sent (role : Role) (response : Bool) (c : Byte) : State :=
      { g with
        role := role
        tx := g.tx ++ encodeFrame g.cfg d response c []
        txFrameCnt := satInc g.txFrameCnt
        writing := true }
    let ua := sent g.role g.rspCR (if pf then 0x73#8 else 0x63#8)
    let dm := sent g.role g.rspCR (if pf then 0x1F#8 else 0x0F#8)
    ((s.chan d.toNat).state = .closed → s.cfg.server = true → d = 0 →
      exec (.rxSabm d cr pf []) s = .next
        (({ sent .responder true (if pf then 0x73#8 else 0x63#8) with
            ch := g.ch.set 0 { state := .opened, att := 0, tmr := false, remote := true, ovf := false, buf := [] }
            reply := .nothing }).event .opened 0 0 [])) ∧
    ((s.chan d.toNat).state = .closed → s.cfg.server = true → d ≠ 0 → (s.chan 0).state = .opened →
      exec (.rxSabm d cr pf []) s = .next
        (({ ua with
            ch := g.ch.set d.toNat { state := .opened, att := 0, tmr := false, remote := true, ovf := false, buf := [] }
            reply := .nothing }).event .opened d.toNat 0 [])) ∧
    ((s.chan d.toNat).state = .closed → s.cfg.server = false ∨ (d ≠ 0 ∧ (s.chan 0).state ≠ .opened) →
      exec (.rxSabm d cr pf []) s = .next { dm with reply := .nothing }) ∧
    ((s.chan d.toNat).state = .opening →
      exec (.rxSabm d cr pf []) s = .next
        (({ ua with
            ch := g.ch.set d.toNat { s.chan d.toNat with state := .opened, tmr := false, att := 0 }
            reply := .nothing }).event .openOk d.toNat 0 [])) ∧
    ((s.chan d.toNat).state = .opened → exec (.rxSabm d cr pf []) s = .next { ua with reply := .nothing }) ∧
    ((s.chan d.toNat).state = .closing → exec (.rxSabm d cr pf []) s = .next { dm with reply := .nothing })

/-- 43_mux_control.md R184, R185: a good UA and a good DM in each state of their channel. Neither sends a frame. -/
def Obligations.UaAndDmInEveryState : Prop :=
  ∀ (s : State) (d : Dlci) (cr pf : Bool), s.link = .up → d.toNat ≤ s.cfg.nch →
    let g := { s.goodFrame with reply := .nothing }
    ((s.chan d.toNat).state = .closed ∨ (s.chan d.toNat).state = .opened →
      exec (.rxUa d cr pf []) s = .next g) ∧
    ((s.chan d.toNat).state = .opening →
      exec (.rxUa d cr pf []) s = .next
        (({ g with ch := g.ch.set d.toNat { s.chan d.toNat with state := .opened, tmr := false, att := 0 } }).event
          .openOk d.toNat 0 [])) ∧
    ((s.chan d.toNat).state = .closing → exec (.rxUa d cr pf []) s = .next (g.closeWith d.toNat .closeOk 0)) ∧
    ((s.chan d.toNat).state = .closed → exec (.rxDm d cr pf []) s = .next g) ∧
    ((s.chan d.toNat).state = .opening → exec (.rxDm d cr pf []) s = .next (g.closeWith d.toNat .openFail 1)) ∧
    ((s.chan d.toNat).state = .opened → exec (.rxDm d cr pf []) s = .next (g.closeWith d.toNat .closed 5)) ∧
    ((s.chan d.toNat).state = .closing → exec (.rxDm d cr pf []) s = .next (g.closeWith d.toNat .closeOk 0))

/-- 43_mux_control.md R186, R187: a good DISC in each state of its channel: DM on a Closed one, else UA and then the
close. -/
def Obligations.DiscIsAnsweredAndCloses : Prop :=
  ∀ (s : State) (d : Dlci) (cr pf : Bool), s.link = .up → d.toNat ≤ s.cfg.nch →
    let g := { s.goodFrame with reply := .nothing }
    let sent (c : Byte) : State :=
      { g with
        tx := g.tx ++ encodeFrame g.cfg d g.rspCR c []
        txFrameCnt := satInc g.txFrameCnt
        writing := true }
    let ua := sent (if pf then 0x73#8 else 0x63#8)
    ((s.chan d.toNat).state = .closed →
      exec (.rxDisc d cr pf []) s = .next (sent (if pf then 0x1F#8 else 0x0F#8))) ∧
    ((s.chan d.toNat).state = .opening → exec (.rxDisc d cr pf []) s = .next (ua.closeWith d.toNat .openFail 1)) ∧
    ((s.chan d.toNat).state = .opened → exec (.rxDisc d cr pf []) s = .next (ua.closeWith d.toNat .closed 5)) ∧
    ((s.chan d.toNat).state = .closing → exec (.rxDisc d cr pf []) s = .next (ua.closeWith d.toNat .closeOk 0))

/-- 44_data_path.md R217, R219, R220, R221: a good UIH or UI frame on a logical channel, the two alike. -/
def Obligations.DataFramesFillTheBuffer : Prop :=
  ∀ (s : State) (d : Dlci) (cr pf : Bool) (payload : List Byte) (i : Instr),
    i = .rxUih d cr pf payload ∨ i = .rxUi d cr pf payload → s.link = .up → d.toNat ≤ s.cfg.nch →
    let g := { s.goodFrame with reply := .nothing }
    let c := s.chan d.toNat
    (c.state = .closed ∨ c.state = .opening → exec i s = .next { g with dropCnt := satInc g.dropCnt }) ∧
    (c.state = .opened ∨ c.state = .closing → d ≠ 0 → payload = [] → exec i s = .next g) ∧
    (c.state = .opened ∨ c.state = .closing → d ≠ 0 → payload ≠ [] →
      fitsCapacity (c.buf.length + payload.length) s.design.bufCap = false →
      exec i s = .next (({ g with ch := g.ch.set d.toNat { c with ovf := true } }).event .overflow d.toNat 0 [])) ∧
    (c.state = .opened ∨ c.state = .closing → d ≠ 0 → payload ≠ [] →
      fitsCapacity (c.buf.length + payload.length) s.design.bufCap = true →
      exec i s = .next
        (({ g with ch := g.ch.set d.toNat { c with buf := c.buf ++ payload } }).event .dataReady d.toNat 0 []))

/-- 44_data_path.md R218: a good UIH or UI frame on DLCI 0 while CH[0] is Open or Closing. A well-formed message, with
a one-byte or a two-byte length, is one CTRL_RX event, and any other payload only counts in FRAME_ERR_CNT. -/
def Obligations.ControlMessagesBecomeEvents : Prop :=
  ∀ (s : State) (cr pf : Bool) (p : List Byte) (i : Instr),
    i = .rxUih 0 cr pf p ∨ i = .rxUi 0 cr pf p → s.link = .up →
    (s.chan 0).state = .opened ∨ (s.chan 0).state = .closing →
    let g := { s.goodFrame with reply := .nothing }
    (∀ (t l0 : Byte) (value : List Byte), p = t :: l0 :: value → t.getLsbD 0 = true → l0.getLsbD 0 = true →
      value.length = l0.toNat / 2 → exec i s = .next (g.event .ctrlRx 0 t value)) ∧
    (∀ (t l0 l1 : Byte) (value : List Byte), p = t :: l0 :: l1 :: value → t.getLsbD 0 = true → l0.getLsbD 0 = false →
      value.length = l0.toNat / 2 + 128 * l1.toNat → exec i s = .next (g.event .ctrlRx 0 t value)) ∧
    ((∀ (t l0 : Byte) (value : List Byte), p = t :: l0 :: value → t.getLsbD 0 = true →
        (l0.getLsbD 0 = true → value.length ≠ l0.toNat / 2) ∧
        (l0.getLsbD 0 = false → ∀ (l1 : Byte) (rest : List Byte), value = l1 :: rest →
          rest.length ≠ l0.toNat / 2 + 128 * l1.toNat)) →
      exec i s = .next { g with frameErrCnt := satInc g.frameErrCnt })

/-! ### Retries and races -/

/-- 43_mux_control.md R174, R190: a logical channel whose open is never answered sends SABM at OPEN and at the first
and second TIMEOUT. The third sends nothing, closes the channel and raises OPEN_FAIL(d, TIMEOUT). -/
def Obligations.UnansweredOpenFailsAtTheThirdTimeout : Prop :=
  ∀ (s : State) (d : Dlci) (data : List Byte), s.tableComplete → d ≠ 0 → d.toNat ≤ s.cfg.nch → s.evqFull = false →
    s.chan d.toNat = { s.chan d.toNat with state := .opening, att := 1, tmr := true } →
    ∃ s1 s2 s3 : State, exec (.timeout d 0 data) s = .next s1 ∧ exec (.timeout d 0 data) s1 = .next s2 ∧
      exec (.timeout d 0 data) s2 = .next s3 ∧
      (s1.chan d.toNat).att = 2 ∧ (s2.chan d.toNat).att = 3 ∧
      s1.tx = s.tx ++ encodeFrame s.cfg d s.cmdCR 0x3F#8 [] ∧
      s2.tx = s1.tx ++ encodeFrame s.cfg d s.cmdCR 0x3F#8 [] ∧ s3.tx = s2.tx ∧
      (s3.chan d.toNat).state = .closed ∧ s2.evq = s.evq ∧ s3.evq = s.evq ++ [⟨0x2, d, 0, []⟩]

/-- 60_exceptions.md R249: a UA and a TIMEOUT for the same Opening channel, in either order. UA first: the open
succeeds and the TIMEOUT does nothing. TIMEOUT first: with attempts left the open still succeeds, after one more SABM;
else the open fails and the UA is ignored. -/
def Obligations.UaAndTimeoutInEitherOrder : Prop :=
  ∀ (s : State) (d : Dlci) (cr pf : Bool) (data : List Byte), s.tableComplete → s.link = .up → d ≠ 0 →
    d.toNat ≤ s.cfg.nch → (s.chan d.toNat).state = .opening → (s.chan d.toNat).tmr = true →
    (∃ s1 s2, exec (.rxUa d cr pf []) s = .next s1 ∧ exec (.timeout d 0 data) s1 = .next s2 ∧
      (s1.chan d.toNat).state = .opened ∧ s2 = { s1 with reply := .command .ok .nothing } ∧ s2.tx = s.tx) ∧
    (∃ s1 s2, exec (.timeout d 0 data) s = .next s1 ∧ exec (.rxUa d cr pf []) s1 = .next s2 ∧
      (((s.chan d.toNat).att.toNat < 3 ∧ (s2.chan d.toNat).state = .opened ∧
          s2.tx = s.tx ++ encodeFrame s.cfg d s.cmdCR 0x3F#8 []) ∨
        ((s.chan d.toNat).att.toNat = 3 ∧ (s1.chan d.toNat).state = .closed ∧
          (s2.chan d.toNat).state = .closed ∧ s2.tx = s.tx)))
end

