-- ==== Sys2Proof/Laws/State.lean ====
section
/-! SUPPORT. One lemma per field per shared update of State, each true by rfl. -/

namespace Sys2Proof.Machine

@[simp] theorem State.setChan_design (s : State) (d : Nat) (c : Channel) :
    (s.setChan d c).design = s.design := rfl
@[simp] theorem State.setChan_pins (s : State) (d : Nat) (c : Channel) :
    (s.setChan d c).pins = s.pins := rfl
@[simp] theorem State.setChan_cfg (s : State) (d : Nat) (c : Channel) :
    (s.setChan d c).cfg = s.cfg := rfl
@[simp] theorem State.setChan_link (s : State) (d : Nat) (c : Channel) :
    (s.setChan d c).link = s.link := rfl
@[simp] theorem State.setChan_role (s : State) (d : Nat) (c : Channel) :
    (s.setChan d c).role = s.role := rfl
@[simp] theorem State.setChan_fcsErrCnt (s : State) (d : Nat) (c : Channel) :
    (s.setChan d c).fcsErrCnt = s.fcsErrCnt := rfl
@[simp] theorem State.setChan_frameErrCnt (s : State) (d : Nat) (c : Channel) :
    (s.setChan d c).frameErrCnt = s.frameErrCnt := rfl
@[simp] theorem State.setChan_desyncByteCnt (s : State) (d : Nat) (c : Channel) :
    (s.setChan d c).desyncByteCnt = s.desyncByteCnt := rfl
@[simp] theorem State.setChan_rxFrameCnt (s : State) (d : Nat) (c : Channel) :
    (s.setChan d c).rxFrameCnt = s.rxFrameCnt := rfl
@[simp] theorem State.setChan_dropCnt (s : State) (d : Nat) (c : Channel) :
    (s.setChan d c).dropCnt = s.dropCnt := rfl
@[simp] theorem State.setChan_txFrameCnt (s : State) (d : Nat) (c : Channel) :
    (s.setChan d c).txFrameCnt = s.txFrameCnt := rfl
@[simp] theorem State.setChan_consecErr (s : State) (d : Nat) (c : Channel) :
    (s.setChan d c).consecErr = s.consecErr := rfl
@[simp] theorem State.setChan_desync (s : State) (d : Nat) (c : Channel) :
    (s.setChan d c).desync = s.desync := rfl
@[simp] theorem State.setChan_evOvf (s : State) (d : Nat) (c : Channel) :
    (s.setChan d c).evOvf = s.evOvf := rfl
@[simp] theorem State.setChan_ch (s : State) (d : Nat) (c : Channel) :
    (s.setChan d c).ch = s.ch.set d c := rfl
@[simp] theorem State.setChan_dec (s : State) (d : Nat) (c : Channel) :
    (s.setChan d c).dec = s.dec := rfl
@[simp] theorem State.setChan_evq (s : State) (d : Nat) (c : Channel) :
    (s.setChan d c).evq = s.evq := rfl
@[simp] theorem State.setChan_tx (s : State) (d : Nat) (c : Channel) :
    (s.setChan d c).tx = s.tx := rfl
@[simp] theorem State.setChan_reply (s : State) (d : Nat) (c : Channel) :
    (s.setChan d c).reply = s.reply := rfl
@[simp] theorem State.setChan_writing (s : State) (d : Nat) (c : Channel) :
    (s.setChan d c).writing = s.writing := rfl
@[simp] theorem State.setChan_pending (s : State) (d : Nat) (c : Channel) :
    (s.setChan d c).pending = s.pending := rfl

@[simp] theorem State.withReply_design (s : State) (r : Reply) :
    (s.withReply r).design = s.design := rfl
@[simp] theorem State.withReply_pins (s : State) (r : Reply) :
    (s.withReply r).pins = s.pins := rfl
@[simp] theorem State.withReply_cfg (s : State) (r : Reply) :
    (s.withReply r).cfg = s.cfg := rfl
@[simp] theorem State.withReply_link (s : State) (r : Reply) :
    (s.withReply r).link = s.link := rfl
@[simp] theorem State.withReply_role (s : State) (r : Reply) :
    (s.withReply r).role = s.role := rfl
@[simp] theorem State.withReply_fcsErrCnt (s : State) (r : Reply) :
    (s.withReply r).fcsErrCnt = s.fcsErrCnt := rfl
@[simp] theorem State.withReply_frameErrCnt (s : State) (r : Reply) :
    (s.withReply r).frameErrCnt = s.frameErrCnt := rfl
@[simp] theorem State.withReply_desyncByteCnt (s : State) (r : Reply) :
    (s.withReply r).desyncByteCnt = s.desyncByteCnt := rfl
@[simp] theorem State.withReply_rxFrameCnt (s : State) (r : Reply) :
    (s.withReply r).rxFrameCnt = s.rxFrameCnt := rfl
@[simp] theorem State.withReply_dropCnt (s : State) (r : Reply) :
    (s.withReply r).dropCnt = s.dropCnt := rfl
@[simp] theorem State.withReply_txFrameCnt (s : State) (r : Reply) :
    (s.withReply r).txFrameCnt = s.txFrameCnt := rfl
@[simp] theorem State.withReply_consecErr (s : State) (r : Reply) :
    (s.withReply r).consecErr = s.consecErr := rfl
@[simp] theorem State.withReply_desync (s : State) (r : Reply) :
    (s.withReply r).desync = s.desync := rfl
@[simp] theorem State.withReply_evOvf (s : State) (r : Reply) :
    (s.withReply r).evOvf = s.evOvf := rfl
@[simp] theorem State.withReply_ch (s : State) (r : Reply) :
    (s.withReply r).ch = s.ch := rfl
@[simp] theorem State.withReply_dec (s : State) (r : Reply) :
    (s.withReply r).dec = s.dec := rfl
@[simp] theorem State.withReply_evq (s : State) (r : Reply) :
    (s.withReply r).evq = s.evq := rfl
@[simp] theorem State.withReply_tx (s : State) (r : Reply) :
    (s.withReply r).tx = s.tx := rfl
@[simp] theorem State.withReply_reply (s : State) (r : Reply) :
    (s.withReply r).reply = r := rfl
@[simp] theorem State.withReply_writing (s : State) (r : Reply) :
    (s.withReply r).writing = s.writing := rfl
@[simp] theorem State.withReply_pending (s : State) (r : Reply) :
    (s.withReply r).pending = s.pending := rfl

@[simp] theorem State.answer_design (s : State) (st : Status) (v : ReturnValue) :
    (s.answer st v).design = s.design := rfl
@[simp] theorem State.answer_pins (s : State) (st : Status) (v : ReturnValue) :
    (s.answer st v).pins = s.pins := rfl
@[simp] theorem State.answer_cfg (s : State) (st : Status) (v : ReturnValue) :
    (s.answer st v).cfg = s.cfg := rfl
@[simp] theorem State.answer_link (s : State) (st : Status) (v : ReturnValue) :
    (s.answer st v).link = s.link := rfl
@[simp] theorem State.answer_role (s : State) (st : Status) (v : ReturnValue) :
    (s.answer st v).role = s.role := rfl
@[simp] theorem State.answer_fcsErrCnt (s : State) (st : Status) (v : ReturnValue) :
    (s.answer st v).fcsErrCnt = s.fcsErrCnt := rfl
@[simp] theorem State.answer_frameErrCnt (s : State) (st : Status) (v : ReturnValue) :
    (s.answer st v).frameErrCnt = s.frameErrCnt := rfl
@[simp] theorem State.answer_desyncByteCnt (s : State) (st : Status) (v : ReturnValue) :
    (s.answer st v).desyncByteCnt = s.desyncByteCnt := rfl
@[simp] theorem State.answer_rxFrameCnt (s : State) (st : Status) (v : ReturnValue) :
    (s.answer st v).rxFrameCnt = s.rxFrameCnt := rfl
@[simp] theorem State.answer_dropCnt (s : State) (st : Status) (v : ReturnValue) :
    (s.answer st v).dropCnt = s.dropCnt := rfl
@[simp] theorem State.answer_txFrameCnt (s : State) (st : Status) (v : ReturnValue) :
    (s.answer st v).txFrameCnt = s.txFrameCnt := rfl
@[simp] theorem State.answer_consecErr (s : State) (st : Status) (v : ReturnValue) :
    (s.answer st v).consecErr = s.consecErr := rfl
@[simp] theorem State.answer_desync (s : State) (st : Status) (v : ReturnValue) :
    (s.answer st v).desync = s.desync := rfl
@[simp] theorem State.answer_evOvf (s : State) (st : Status) (v : ReturnValue) :
    (s.answer st v).evOvf = s.evOvf := rfl
@[simp] theorem State.answer_ch (s : State) (st : Status) (v : ReturnValue) :
    (s.answer st v).ch = s.ch := rfl
@[simp] theorem State.answer_dec (s : State) (st : Status) (v : ReturnValue) :
    (s.answer st v).dec = s.dec := rfl
@[simp] theorem State.answer_evq (s : State) (st : Status) (v : ReturnValue) :
    (s.answer st v).evq = s.evq := rfl
@[simp] theorem State.answer_tx (s : State) (st : Status) (v : ReturnValue) :
    (s.answer st v).tx = s.tx := rfl
@[simp] theorem State.answer_reply (s : State) (st : Status) (v : ReturnValue) :
    (s.answer st v).reply = .command st v := rfl
@[simp] theorem State.answer_writing (s : State) (st : Status) (v : ReturnValue) :
    (s.answer st v).writing = s.writing := rfl
@[simp] theorem State.answer_pending (s : State) (st : Status) (v : ReturnValue) :
    (s.answer st v).pending = s.pending := rfl

@[simp] theorem State.event_design (s : State) (k : EventKind) (d : Nat) (a : Byte) (x : List Byte) :
    (s.event k d a x).design = s.design := rfl
@[simp] theorem State.event_pins (s : State) (k : EventKind) (d : Nat) (a : Byte) (x : List Byte) :
    (s.event k d a x).pins = s.pins := rfl
@[simp] theorem State.event_cfg (s : State) (k : EventKind) (d : Nat) (a : Byte) (x : List Byte) :
    (s.event k d a x).cfg = s.cfg := rfl
@[simp] theorem State.event_link (s : State) (k : EventKind) (d : Nat) (a : Byte) (x : List Byte) :
    (s.event k d a x).link = s.link := rfl
@[simp] theorem State.event_role (s : State) (k : EventKind) (d : Nat) (a : Byte) (x : List Byte) :
    (s.event k d a x).role = s.role := rfl
@[simp] theorem State.event_fcsErrCnt (s : State) (k : EventKind) (d : Nat) (a : Byte) (x : List Byte) :
    (s.event k d a x).fcsErrCnt = s.fcsErrCnt := rfl
@[simp] theorem State.event_frameErrCnt (s : State) (k : EventKind) (d : Nat) (a : Byte) (x : List Byte) :
    (s.event k d a x).frameErrCnt = s.frameErrCnt := rfl
@[simp] theorem State.event_desyncByteCnt (s : State) (k : EventKind) (d : Nat) (a : Byte) (x : List Byte) :
    (s.event k d a x).desyncByteCnt = s.desyncByteCnt := rfl
@[simp] theorem State.event_rxFrameCnt (s : State) (k : EventKind) (d : Nat) (a : Byte) (x : List Byte) :
    (s.event k d a x).rxFrameCnt = s.rxFrameCnt := rfl
@[simp] theorem State.event_dropCnt (s : State) (k : EventKind) (d : Nat) (a : Byte) (x : List Byte) :
    (s.event k d a x).dropCnt = s.dropCnt := rfl
@[simp] theorem State.event_txFrameCnt (s : State) (k : EventKind) (d : Nat) (a : Byte) (x : List Byte) :
    (s.event k d a x).txFrameCnt = s.txFrameCnt := rfl
@[simp] theorem State.event_consecErr (s : State) (k : EventKind) (d : Nat) (a : Byte) (x : List Byte) :
    (s.event k d a x).consecErr = s.consecErr := rfl
@[simp] theorem State.event_desync (s : State) (k : EventKind) (d : Nat) (a : Byte) (x : List Byte) :
    (s.event k d a x).desync = s.desync := rfl
@[simp] theorem State.event_evOvf (s : State) (k : EventKind) (d : Nat) (a : Byte) (x : List Byte) :
    (s.event k d a x).evOvf = if s.evqFull then true else s.evOvf := rfl
@[simp] theorem State.event_ch (s : State) (k : EventKind) (d : Nat) (a : Byte) (x : List Byte) :
    (s.event k d a x).ch = s.ch := rfl
@[simp] theorem State.event_dec (s : State) (k : EventKind) (d : Nat) (a : Byte) (x : List Byte) :
    (s.event k d a x).dec = s.dec := rfl
@[simp] theorem State.event_evq (s : State) (k : EventKind) (d : Nat) (a : Byte) (x : List Byte) :
    (s.event k d a x).evq = if s.evqFull then s.evq else s.evq ++ [eventRecord k d a x] := rfl
@[simp] theorem State.event_tx (s : State) (k : EventKind) (d : Nat) (a : Byte) (x : List Byte) :
    (s.event k d a x).tx = s.tx := rfl
@[simp] theorem State.event_reply (s : State) (k : EventKind) (d : Nat) (a : Byte) (x : List Byte) :
    (s.event k d a x).reply = s.reply := rfl
@[simp] theorem State.event_writing (s : State) (k : EventKind) (d : Nat) (a : Byte) (x : List Byte) :
    (s.event k d a x).writing = s.writing := rfl
@[simp] theorem State.event_pending (s : State) (k : EventKind) (d : Nat) (a : Byte) (x : List Byte) :
    (s.event k d a x).pending = s.pending := rfl

@[simp] theorem State.sendFrame_design (s : State) (d : Nat) (cr : Bool) (c : Byte) (p : List Byte) :
    (s.sendFrame d cr c p).design = s.design := rfl
@[simp] theorem State.sendFrame_pins (s : State) (d : Nat) (cr : Bool) (c : Byte) (p : List Byte) :
    (s.sendFrame d cr c p).pins = s.pins := rfl
@[simp] theorem State.sendFrame_cfg (s : State) (d : Nat) (cr : Bool) (c : Byte) (p : List Byte) :
    (s.sendFrame d cr c p).cfg = s.cfg := rfl
@[simp] theorem State.sendFrame_link (s : State) (d : Nat) (cr : Bool) (c : Byte) (p : List Byte) :
    (s.sendFrame d cr c p).link = s.link := rfl
@[simp] theorem State.sendFrame_role (s : State) (d : Nat) (cr : Bool) (c : Byte) (p : List Byte) :
    (s.sendFrame d cr c p).role = s.role := rfl
@[simp] theorem State.sendFrame_fcsErrCnt (s : State) (d : Nat) (cr : Bool) (c : Byte) (p : List Byte) :
    (s.sendFrame d cr c p).fcsErrCnt = s.fcsErrCnt := rfl
@[simp] theorem State.sendFrame_frameErrCnt (s : State) (d : Nat) (cr : Bool) (c : Byte) (p : List Byte) :
    (s.sendFrame d cr c p).frameErrCnt = s.frameErrCnt := rfl
@[simp] theorem State.sendFrame_desyncByteCnt (s : State) (d : Nat) (cr : Bool) (c : Byte) (p : List Byte) :
    (s.sendFrame d cr c p).desyncByteCnt = s.desyncByteCnt := rfl
@[simp] theorem State.sendFrame_rxFrameCnt (s : State) (d : Nat) (cr : Bool) (c : Byte) (p : List Byte) :
    (s.sendFrame d cr c p).rxFrameCnt = s.rxFrameCnt := rfl
@[simp] theorem State.sendFrame_dropCnt (s : State) (d : Nat) (cr : Bool) (c : Byte) (p : List Byte) :
    (s.sendFrame d cr c p).dropCnt = s.dropCnt := rfl
@[simp] theorem State.sendFrame_txFrameCnt (s : State) (d : Nat) (cr : Bool) (c : Byte) (p : List Byte) :
    (s.sendFrame d cr c p).txFrameCnt = satInc s.txFrameCnt := rfl
@[simp] theorem State.sendFrame_consecErr (s : State) (d : Nat) (cr : Bool) (c : Byte) (p : List Byte) :
    (s.sendFrame d cr c p).consecErr = s.consecErr := rfl
@[simp] theorem State.sendFrame_desync (s : State) (d : Nat) (cr : Bool) (c : Byte) (p : List Byte) :
    (s.sendFrame d cr c p).desync = s.desync := rfl
@[simp] theorem State.sendFrame_evOvf (s : State) (d : Nat) (cr : Bool) (c : Byte) (p : List Byte) :
    (s.sendFrame d cr c p).evOvf = s.evOvf := rfl
@[simp] theorem State.sendFrame_ch (s : State) (d : Nat) (cr : Bool) (c : Byte) (p : List Byte) :
    (s.sendFrame d cr c p).ch = s.ch := rfl
@[simp] theorem State.sendFrame_dec (s : State) (d : Nat) (cr : Bool) (c : Byte) (p : List Byte) :
    (s.sendFrame d cr c p).dec = s.dec := rfl
@[simp] theorem State.sendFrame_evq (s : State) (d : Nat) (cr : Bool) (c : Byte) (p : List Byte) :
    (s.sendFrame d cr c p).evq = s.evq := rfl
@[simp] theorem State.sendFrame_tx (s : State) (d : Nat) (cr : Bool) (c : Byte) (p : List Byte) :
    (s.sendFrame d cr c p).tx = s.tx ++ encodeFrame s.cfg (BitVec.ofNat 6 d) cr c p := rfl
@[simp] theorem State.sendFrame_reply (s : State) (d : Nat) (cr : Bool) (c : Byte) (p : List Byte) :
    (s.sendFrame d cr c p).reply = s.reply := rfl
@[simp] theorem State.sendFrame_writing (s : State) (d : Nat) (cr : Bool) (c : Byte) (p : List Byte) :
    (s.sendFrame d cr c p).writing = true := rfl
@[simp] theorem State.sendFrame_pending (s : State) (d : Nat) (cr : Bool) (c : Byte) (p : List Byte) :
    (s.sendFrame d cr c p).pending = s.pending := rfl

@[simp] theorem State.decoderReset_design (s : State) :
    (s.decoderReset).design = s.design := rfl
@[simp] theorem State.decoderReset_pins (s : State) :
    (s.decoderReset).pins = s.pins := rfl
@[simp] theorem State.decoderReset_cfg (s : State) :
    (s.decoderReset).cfg = s.cfg := rfl
@[simp] theorem State.decoderReset_link (s : State) :
    (s.decoderReset).link = s.link := rfl
@[simp] theorem State.decoderReset_role (s : State) :
    (s.decoderReset).role = s.role := rfl
@[simp] theorem State.decoderReset_fcsErrCnt (s : State) :
    (s.decoderReset).fcsErrCnt = s.fcsErrCnt := rfl
@[simp] theorem State.decoderReset_frameErrCnt (s : State) :
    (s.decoderReset).frameErrCnt = s.frameErrCnt := rfl
@[simp] theorem State.decoderReset_desyncByteCnt (s : State) :
    (s.decoderReset).desyncByteCnt = s.desyncByteCnt := rfl
@[simp] theorem State.decoderReset_rxFrameCnt (s : State) :
    (s.decoderReset).rxFrameCnt = s.rxFrameCnt := rfl
@[simp] theorem State.decoderReset_dropCnt (s : State) :
    (s.decoderReset).dropCnt = s.dropCnt := rfl
@[simp] theorem State.decoderReset_txFrameCnt (s : State) :
    (s.decoderReset).txFrameCnt = s.txFrameCnt := rfl
@[simp] theorem State.decoderReset_consecErr (s : State) :
    (s.decoderReset).consecErr = s.consecErr := rfl
@[simp] theorem State.decoderReset_desync (s : State) :
    (s.decoderReset).desync = s.desync := rfl
@[simp] theorem State.decoderReset_evOvf (s : State) :
    (s.decoderReset).evOvf = s.evOvf := rfl
@[simp] theorem State.decoderReset_ch (s : State) :
    (s.decoderReset).ch = s.ch := rfl
@[simp] theorem State.decoderReset_dec (s : State) :
    (s.decoderReset).dec = Decoder.reset := rfl
@[simp] theorem State.decoderReset_evq (s : State) :
    (s.decoderReset).evq = s.evq := rfl
@[simp] theorem State.decoderReset_tx (s : State) :
    (s.decoderReset).tx = s.tx := rfl
@[simp] theorem State.decoderReset_reply (s : State) :
    (s.decoderReset).reply = s.reply := rfl
@[simp] theorem State.decoderReset_writing (s : State) :
    (s.decoderReset).writing = s.writing := rfl
@[simp] theorem State.decoderReset_pending (s : State) :
    (s.decoderReset).pending = s.pending := rfl

@[simp] theorem State.countHunted_design (s : State) :
    (s.countHunted).design = s.design := rfl
@[simp] theorem State.countHunted_pins (s : State) :
    (s.countHunted).pins = s.pins := rfl
@[simp] theorem State.countHunted_cfg (s : State) :
    (s.countHunted).cfg = s.cfg := rfl
@[simp] theorem State.countHunted_link (s : State) :
    (s.countHunted).link = s.link := rfl
@[simp] theorem State.countHunted_role (s : State) :
    (s.countHunted).role = s.role := rfl
@[simp] theorem State.countHunted_fcsErrCnt (s : State) :
    (s.countHunted).fcsErrCnt = s.fcsErrCnt := rfl
@[simp] theorem State.countHunted_frameErrCnt (s : State) :
    (s.countHunted).frameErrCnt = s.frameErrCnt := rfl
@[simp] theorem State.countHunted_desyncByteCnt (s : State) :
    (s.countHunted).desyncByteCnt = satInc s.desyncByteCnt := rfl
@[simp] theorem State.countHunted_rxFrameCnt (s : State) :
    (s.countHunted).rxFrameCnt = s.rxFrameCnt := rfl
@[simp] theorem State.countHunted_dropCnt (s : State) :
    (s.countHunted).dropCnt = s.dropCnt := rfl
@[simp] theorem State.countHunted_txFrameCnt (s : State) :
    (s.countHunted).txFrameCnt = s.txFrameCnt := rfl
@[simp] theorem State.countHunted_consecErr (s : State) :
    (s.countHunted).consecErr = s.consecErr := rfl
@[simp] theorem State.countHunted_desync (s : State) :
    (s.countHunted).desync = s.desync := rfl
@[simp] theorem State.countHunted_evOvf (s : State) :
    (s.countHunted).evOvf = s.evOvf := rfl
@[simp] theorem State.countHunted_ch (s : State) :
    (s.countHunted).ch = s.ch := rfl
@[simp] theorem State.countHunted_dec (s : State) :
    (s.countHunted).dec = s.dec := rfl
@[simp] theorem State.countHunted_evq (s : State) :
    (s.countHunted).evq = s.evq := rfl
@[simp] theorem State.countHunted_tx (s : State) :
    (s.countHunted).tx = s.tx := rfl
@[simp] theorem State.countHunted_reply (s : State) :
    (s.countHunted).reply = s.reply := rfl
@[simp] theorem State.countHunted_writing (s : State) :
    (s.countHunted).writing = s.writing := rfl
@[simp] theorem State.countHunted_pending (s : State) :
    (s.countHunted).pending = s.pending := rfl

@[simp] theorem State.goto_design (s : State) (d : DState) :
    (s.goto d).design = s.design := rfl
@[simp] theorem State.goto_pins (s : State) (d : DState) :
    (s.goto d).pins = s.pins := rfl
@[simp] theorem State.goto_cfg (s : State) (d : DState) :
    (s.goto d).cfg = s.cfg := rfl
@[simp] theorem State.goto_link (s : State) (d : DState) :
    (s.goto d).link = s.link := rfl
@[simp] theorem State.goto_role (s : State) (d : DState) :
    (s.goto d).role = s.role := rfl
@[simp] theorem State.goto_fcsErrCnt (s : State) (d : DState) :
    (s.goto d).fcsErrCnt = s.fcsErrCnt := rfl
@[simp] theorem State.goto_frameErrCnt (s : State) (d : DState) :
    (s.goto d).frameErrCnt = s.frameErrCnt := rfl
@[simp] theorem State.goto_desyncByteCnt (s : State) (d : DState) :
    (s.goto d).desyncByteCnt = s.desyncByteCnt := rfl
@[simp] theorem State.goto_rxFrameCnt (s : State) (d : DState) :
    (s.goto d).rxFrameCnt = s.rxFrameCnt := rfl
@[simp] theorem State.goto_dropCnt (s : State) (d : DState) :
    (s.goto d).dropCnt = s.dropCnt := rfl
@[simp] theorem State.goto_txFrameCnt (s : State) (d : DState) :
    (s.goto d).txFrameCnt = s.txFrameCnt := rfl
@[simp] theorem State.goto_consecErr (s : State) (d : DState) :
    (s.goto d).consecErr = s.consecErr := rfl
@[simp] theorem State.goto_desync (s : State) (d : DState) :
    (s.goto d).desync = s.desync := rfl
@[simp] theorem State.goto_evOvf (s : State) (d : DState) :
    (s.goto d).evOvf = s.evOvf := rfl
@[simp] theorem State.goto_ch (s : State) (d : DState) :
    (s.goto d).ch = s.ch := rfl
@[simp] theorem State.goto_dec (s : State) (d : DState) :
    (s.goto d).dec = { s.dec with dstate := d } := rfl
@[simp] theorem State.goto_evq (s : State) (d : DState) :
    (s.goto d).evq = s.evq := rfl
@[simp] theorem State.goto_tx (s : State) (d : DState) :
    (s.goto d).tx = s.tx := rfl
@[simp] theorem State.goto_reply (s : State) (d : DState) :
    (s.goto d).reply = s.reply := rfl
@[simp] theorem State.goto_writing (s : State) (d : DState) :
    (s.goto d).writing = s.writing := rfl
@[simp] theorem State.goto_pending (s : State) (d : DState) :
    (s.goto d).pending = s.pending := rfl

/-- The five Send primitives are one frame each (41_encoder.md R117 to R121). -/
theorem State.sendSabm_eq (s : State) (d : Nat) : s.sendSabm d = s.sendFrame d s.cmdCR 0x3F#8 [] := rfl
theorem State.sendDisc_eq (s : State) (d : Nat) : s.sendDisc d = s.sendFrame d s.cmdCR 0x53#8 [] := rfl
theorem State.sendUa_eq (s : State) (d : Nat) (pf : Bool) :
    s.sendUa d pf = s.sendFrame d s.rspCR (controlByte 0x63#8 pf) [] := rfl
theorem State.sendDm_eq (s : State) (d : Nat) (pf : Bool) :
    s.sendDm d pf = s.sendFrame d s.rspCR (controlByte 0x0F#8 pf) [] := rfl
theorem State.sendUih_eq (s : State) (d : Nat) (p : List Byte) : s.sendUih d p = s.sendFrame d s.cmdCR 0xEF#8 p := rfl

/-- Reading the channel table after a write (10_state.md R31). -/
theorem State.chan_setChan (s : State) (d e : Nat) (c : Channel) :
    (s.setChan d c).chan e = if d = e ∧ d < s.ch.length then c else s.chan e := by
  simp only [State.chan, State.setChan, List.getD_eq_getElem?_getD, List.getElem?_set]
  split
  · next h => subst h; split <;> simp_all
  · next h => simp [h]

theorem State.chan_setChan_self (s : State) (d : Nat) (c : Channel) (h : d < s.ch.length) :
    (s.setChan d c).chan d = c := by simp [State.chan_setChan, h]

theorem State.chan_setChan_ne (s : State) (d e : Nat) (c : Channel) (h : d ≠ e) :
    (s.setChan d c).chan e = s.chan e := by simp [State.chan_setChan, h]

/-- A record of the table, or the reset record beyond it. -/
theorem State.chan_mem (s : State) (d : Nat) : s.chan d ∈ s.ch ∨ s.chan d = Channel.reset := by
  unfold State.chan
  rw [List.getD_eq_getElem?_getD]
  cases h : s.ch[d]? with
  | none => simp
  | some c => simp [List.mem_of_getElem? h]

/-- The channel table decides every channel. -/
theorem State.chan_congr {s t : State} (h : t.ch = s.ch) (d : Nat) : t.chan d = s.chan d := by
  simp [State.chan, h]

end Sys2Proof.Machine
end

