-- ==== Sys2Proof/Laws/Ops.lean ====
section
/-! SUPPORT. For each shared operation of the machine, what it can do, said once: counters, events, frame errors, closing channels, sending frames. -/

namespace Sys2Proof.Machine

/-! ### Counters (10_state.md R27) -/

theorem satInc_toNat (c : BitVec 16) : (satInc c).toNat = min (c.toNat + 1) 65535 := by
  simp only [satInc, sat16, BitVec.toNat_ofNat]
  omega

/-- A counter never falls when it is incremented. -/
theorem le_satInc (c : BitVec 16) : c ≤ satInc c := by
  have := c.isLt
  rw [BitVec.le_def, satInc_toNat]
  omega

/-! ### Events (60_exceptions.md R250) -/

/-- An event changes only EVQ and EVOVF. -/
theorem State.event_frame (s : State) (k : EventKind) (d : Nat) (a : Byte) (x : List Byte) :
    s.event k d a x = { s with evq := (s.event k d a x).evq, evOvf := (s.event k d a x).evOvf } := rfl

/-- An event leaves the earlier ones where they are. -/
theorem State.event_evq_prefix (s : State) (k : EventKind) (d : Nat) (a : Byte) (x : List Byte) :
    s.evq <+: (s.event k d a x).evq := by
  rw [State.event_evq]
  split
  · exact List.prefix_rfl
  · exact List.prefix_append _ _

@[simp] theorem State.chan_event (s : State) (k : EventKind) (d e : Nat) (a : Byte) (x : List Byte) :
    (s.event k d a x).chan e = s.chan e := rfl

@[simp] theorem State.chan_sendFrame (s : State) (d e : Nat) (cr : Bool) (c : Byte) (p : List Byte) :
    (s.sendFrame d cr c p).chan e = s.chan e := rfl

@[simp] theorem State.chan_withReply (s : State) (r : Reply) (e : Nat) : (s.withReply r).chan e = s.chan e := rfl

@[simp] theorem State.chan_decoderReset (s : State) (e : Nat) : s.decoderReset.chan e = s.chan e := rfl

/-- A queue within its depth stays so (20_memory.md R63). -/
theorem queued_fits (depth : Option Nat) (evq news : List EventRecord) :
    fitsCapacity (queued depth evq news).length depth = true := by
  cases depth <;> simp [queued, fitsCapacity]

theorem queued_nil (depth : Option Nat) (evq : List EventRecord) (h : fitsCapacity evq.length depth = true) :
    queued depth evq [] = evq := by
  cases depth with
  | none => simp [queued]
  | some k => simpa [queued, fitsCapacity] using h

theorem discards_nil (depth : Option Nat) (evq : List EventRecord) (h : fitsCapacity evq.length depth = true) :
    discards depth evq [] = false := by
  cases depth with
  | none => rfl
  | some k => simpa [discards, fitsCapacity] using h

/-- Raising two runs of records is raising one. -/
theorem queued_queued (depth : Option Nat) (evq a b : List EventRecord) :
    queued depth (queued depth evq a) b = queued depth evq (a ++ b) := by
  cases depth with
  | none => simp [queued]
  | some k =>
    simp only [queued]
    rw [← List.append_assoc, List.take_append, List.take_append (l₁ := evq ++ a), List.take_take, Nat.min_self,
      List.length_take]
    congr 2
    omega

theorem discards_queued (depth : Option Nat) (evq a b : List EventRecord) :
    (discards depth evq a || discards depth (queued depth evq a) b) =
      (discards depth evq a || discards depth evq (a ++ b)) := by
  cases depth with
  | none => rfl
  | some k =>
    simp only [queued, discards, List.length_take, List.length_append]
    rw [← Bool.decide_or, ← Bool.decide_or, decide_eq_decide]
    omega

theorem discards_append (depth : Option Nat) (evq a b : List EventRecord) :
    (discards depth evq a || discards depth evq (a ++ b)) = discards depth evq (a ++ b) := by
  cases depth with
  | none => rfl
  | some k =>
    simp only [discards, List.length_append]
    rw [← Bool.decide_or, decide_eq_decide]
    omega

/-- `s` after these records are raised in order. -/
def State.raised (s : State) (news : List EventRecord) : State :=
  { s with
    evq := queued s.design.evqDepth s.evq news
    evOvf := s.evOvf || discards s.design.evqDepth s.evq news }

@[simp] theorem State.chan_raised (s : State) (news : List EventRecord) (e : Nat) :
    (s.raised news).chan e = s.chan e := rfl

/-- EVQ is within its depth (20_memory.md R63). -/
abbrev State.evqFits (s : State) : Prop := fitsCapacity s.evq.length s.design.evqDepth = true

theorem State.raised_nil (s : State) (h : s.evqFits) : s.raised [] = s := by
  simp [State.raised, queued_nil _ _ h, discards_nil _ _ h]

theorem State.raised_evqFits (s : State) (news : List EventRecord) : (s.raised news).evqFits := queued_fits _ _ _

/-- Records raised in two runs are raised in one. -/
theorem State.raised_raised (s : State) (a b : List EventRecord) :
    (s.raised a).raised b = s.raised (a ++ b) := by
  simp only [State.raised, queued_queued, Bool.or_assoc, discards_queued, discards_append]

/-- EVQ is full when it holds P_EVQ records: never where P_EVQ = ∞ (20_memory.md R54, R63). -/
theorem State.evqFull_iff (s : State) : s.evqFull = true ↔ s.design.evqDepth = some s.evq.length := by
  unfold State.evqFull; cases s.design.evqDepth <;> simp [eq_comm]

/-- One event is one raised record. -/
theorem State.event_eq_raised (s : State) (h : s.evqFits) (k : EventKind) (d : Nat) (a : Byte)
    (x : List Byte) : s.event k d a x = s.raised [eventRecord k d a x] := by
  have h2 := h
  unfold State.event State.raised State.evqFull
  unfold State.evqFits at h2
  generalize s.design.evqDepth = depth at h2
  cases depth with
  | none => simp [queued, discards]
  | some n =>
    simp only [fitsCapacity, decide_eq_true_eq] at h2
    simp only [queued, discards, List.length_singleton]
    by_cases he : s.evq.length = n
    · subst he; simp
    · have hlt : s.evq.length + 1 ≤ n := by omega
      rw [List.take_of_length_le (by simpa using hlt)]
      simp [he, Nat.not_lt.mpr hlt]

/-! ### Frame errors and good frames (42_decoder.md R150, R151) -/

@[simp] theorem State.frameError_design (s : State) (k : FrameErrorKind) : (s.frameError k).design = s.design := by
  simp only [State.frameError]; split <;> rfl
@[simp] theorem State.frameError_pins (s : State) (k : FrameErrorKind) : (s.frameError k).pins = s.pins := by
  simp only [State.frameError]; split <;> rfl
@[simp] theorem State.frameError_cfg (s : State) (k : FrameErrorKind) : (s.frameError k).cfg = s.cfg := by
  simp only [State.frameError]; split <;> rfl
@[simp] theorem State.frameError_link (s : State) (k : FrameErrorKind) : (s.frameError k).link = s.link := by
  simp only [State.frameError]; split <;> rfl
@[simp] theorem State.frameError_role (s : State) (k : FrameErrorKind) : (s.frameError k).role = s.role := by
  simp only [State.frameError]; split <;> rfl
@[simp] theorem State.frameError_desyncByteCnt (s : State) (k : FrameErrorKind) : (s.frameError k).desyncByteCnt = s.desyncByteCnt := by
  simp only [State.frameError]; split <;> rfl
@[simp] theorem State.frameError_rxFrameCnt (s : State) (k : FrameErrorKind) : (s.frameError k).rxFrameCnt = s.rxFrameCnt := by
  simp only [State.frameError]; split <;> rfl
@[simp] theorem State.frameError_dropCnt (s : State) (k : FrameErrorKind) : (s.frameError k).dropCnt = s.dropCnt := by
  simp only [State.frameError]; split <;> rfl
@[simp] theorem State.frameError_txFrameCnt (s : State) (k : FrameErrorKind) : (s.frameError k).txFrameCnt = s.txFrameCnt := by
  simp only [State.frameError]; split <;> rfl
@[simp] theorem State.frameError_ch (s : State) (k : FrameErrorKind) : (s.frameError k).ch = s.ch := by
  simp only [State.frameError]; split <;> rfl
@[simp] theorem State.frameError_dec (s : State) (k : FrameErrorKind) : (s.frameError k).dec = s.dec := by
  simp only [State.frameError]; split <;> rfl
@[simp] theorem State.frameError_tx (s : State) (k : FrameErrorKind) : (s.frameError k).tx = s.tx := by
  simp only [State.frameError]; split <;> rfl
@[simp] theorem State.frameError_reply (s : State) (k : FrameErrorKind) : (s.frameError k).reply = s.reply := by
  simp only [State.frameError]; split <;> rfl
@[simp] theorem State.frameError_writing (s : State) (k : FrameErrorKind) : (s.frameError k).writing = s.writing := by
  simp only [State.frameError]; split <;> rfl
@[simp] theorem State.frameError_pending (s : State) (k : FrameErrorKind) : (s.frameError k).pending = s.pending := by
  simp only [State.frameError]; split <;> rfl

@[simp] theorem State.goodFrame_design (s : State) : (s.goodFrame).design = s.design := by
  simp only [State.goodFrame]; split <;> rfl
@[simp] theorem State.goodFrame_pins (s : State) : (s.goodFrame).pins = s.pins := by
  simp only [State.goodFrame]; split <;> rfl
@[simp] theorem State.goodFrame_cfg (s : State) : (s.goodFrame).cfg = s.cfg := by
  simp only [State.goodFrame]; split <;> rfl
@[simp] theorem State.goodFrame_link (s : State) : (s.goodFrame).link = s.link := by
  simp only [State.goodFrame]; split <;> rfl
@[simp] theorem State.goodFrame_role (s : State) : (s.goodFrame).role = s.role := by
  simp only [State.goodFrame]; split <;> rfl
@[simp] theorem State.goodFrame_fcsErrCnt (s : State) : (s.goodFrame).fcsErrCnt = s.fcsErrCnt := by
  simp only [State.goodFrame]; split <;> rfl
@[simp] theorem State.goodFrame_frameErrCnt (s : State) : (s.goodFrame).frameErrCnt = s.frameErrCnt := by
  simp only [State.goodFrame]; split <;> rfl
@[simp] theorem State.goodFrame_desyncByteCnt (s : State) : (s.goodFrame).desyncByteCnt = s.desyncByteCnt := by
  simp only [State.goodFrame]; split <;> rfl
@[simp] theorem State.goodFrame_dropCnt (s : State) : (s.goodFrame).dropCnt = s.dropCnt := by
  simp only [State.goodFrame]; split <;> rfl
@[simp] theorem State.goodFrame_txFrameCnt (s : State) : (s.goodFrame).txFrameCnt = s.txFrameCnt := by
  simp only [State.goodFrame]; split <;> rfl
@[simp] theorem State.goodFrame_ch (s : State) : (s.goodFrame).ch = s.ch := by
  simp only [State.goodFrame]; split <;> rfl
@[simp] theorem State.goodFrame_dec (s : State) : (s.goodFrame).dec = s.dec := by
  simp only [State.goodFrame]; split <;> rfl
@[simp] theorem State.goodFrame_tx (s : State) : (s.goodFrame).tx = s.tx := by
  simp only [State.goodFrame]; split <;> rfl
@[simp] theorem State.goodFrame_reply (s : State) : (s.goodFrame).reply = s.reply := by
  simp only [State.goodFrame]; split <;> rfl
@[simp] theorem State.goodFrame_writing (s : State) : (s.goodFrame).writing = s.writing := by
  simp only [State.goodFrame]; split <;> rfl
@[simp] theorem State.goodFrame_pending (s : State) : (s.goodFrame).pending = s.pending := by
  simp only [State.goodFrame]; split <;> rfl

/-- A frame error counts, and may raise one LINK_HEALTH event. -/
theorem State.frameError_frame (s : State) (k : FrameErrorKind) :
    s.frameError k = { s with
      fcsErrCnt := (s.frameError k).fcsErrCnt, frameErrCnt := (s.frameError k).frameErrCnt
      consecErr := satInc s.consecErr, desync := (s.frameError k).desync
      evq := (s.frameError k).evq, evOvf := (s.frameError k).evOvf } := by
  simp only [State.frameError]; split <;> rfl

@[simp] theorem State.frameError_fcsErrCnt (s : State) (k : FrameErrorKind) :
    (s.frameError k).fcsErrCnt = if k = .fcs then satInc s.fcsErrCnt else s.fcsErrCnt := by
  simp only [State.frameError]; split <;> rfl

@[simp] theorem State.frameError_frameErrCnt (s : State) (k : FrameErrorKind) :
    (s.frameError k).frameErrCnt = if k = .fcs then s.frameErrCnt else satInc s.frameErrCnt := by
  simp only [State.frameError]; split <;> rfl

@[simp] theorem State.frameError_consecErr (s : State) (k : FrameErrorKind) :
    (s.frameError k).consecErr = satInc s.consecErr := by
  simp only [State.frameError]; split <;> rfl

@[simp] theorem State.frameError_desync (s : State) (k : FrameErrorKind) :
    (s.frameError k).desync = (s.desync || s.desyncRises (satInc s.consecErr)) := by
  simp only [State.frameError]; split <;> rfl

/-- The event that a frame error raises, if DESYNC rises. -/
theorem State.frameError_events (s : State) (h : s.evqFits) (k : FrameErrorKind) :
    (s.frameError k).evq =
        (s.raised (if s.desyncRises (satInc s.consecErr) then [eventRecord .linkHealth 0 1 []] else [])).evq ∧
      (s.frameError k).evOvf =
        (s.raised (if s.desyncRises (satInc s.consecErr) then [eventRecord .linkHealth 0 1 []] else [])).evOvf := by
  simp only [State.frameError]
  split
  · have e := s.event_eq_raised h .linkHealth 0 1 []
    have hq := congrArg State.evq e
    have ho := congrArg State.evOvf e
    exact ⟨hq, ho⟩
  · rw [State.raised_nil s h]; exact ⟨rfl, rfl⟩

theorem State.frameError_evq_prefix (s : State) (k : FrameErrorKind) : s.evq <+: (s.frameError k).evq := by
  simp only [State.frameError]
  split
  · exact State.event_evq_prefix _ _ _ _ _
  · exact List.prefix_rfl

@[simp] theorem State.chan_frameError (s : State) (k : FrameErrorKind) (e : Nat) :
    (s.frameError k).chan e = s.chan e := State.chan_congr (by simp) e

/-- A good frame counts, and may raise one LINK_HEALTH event. -/
theorem State.goodFrame_frame (s : State) :
    s.goodFrame = { s with
      rxFrameCnt := satInc s.rxFrameCnt, consecErr := 0, desync := false
      evq := s.goodFrame.evq, evOvf := s.goodFrame.evOvf } := by
  simp only [State.goodFrame]; split <;> rfl

@[simp] theorem State.goodFrame_rxFrameCnt (s : State) : s.goodFrame.rxFrameCnt = satInc s.rxFrameCnt := by
  simp only [State.goodFrame]; split <;> rfl

@[simp] theorem State.goodFrame_consecErr (s : State) : s.goodFrame.consecErr = 0 := by
  simp only [State.goodFrame]; split <;> rfl

@[simp] theorem State.goodFrame_desync (s : State) : s.goodFrame.desync = false := by
  simp only [State.goodFrame]; split <;> rfl

/-- The event that a good frame raises, if DESYNC was set. -/
theorem State.goodFrame_events (s : State) (h : s.evqFits) :
    s.goodFrame.evq = (s.raised (if s.desync then [eventRecord .linkHealth 0 0 []] else [])).evq ∧
      s.goodFrame.evOvf = (s.raised (if s.desync then [eventRecord .linkHealth 0 0 []] else [])).evOvf := by
  simp only [State.goodFrame]
  split
  · have e := s.event_eq_raised h .linkHealth 0 0 []
    have hq := congrArg State.evq e
    have ho := congrArg State.evOvf e
    exact ⟨hq, ho⟩
  · rw [State.raised_nil s h]; exact ⟨rfl, rfl⟩

theorem State.goodFrame_evq_prefix (s : State) : s.evq <+: s.goodFrame.evq := by
  simp only [State.goodFrame]
  split
  · exact State.event_evq_prefix _ _ _ _ _
  · exact List.prefix_rfl

@[simp] theorem State.chan_goodFrame (s : State) (e : Nat) : s.goodFrame.chan e = s.chan e :=
  State.chan_congr (by simp) e

/-! ### Closing channels (43_mux_control.md R175 to R178) -/

@[simp] theorem State.setChan_length (s : State) (d : Nat) (c : Channel) : (s.setChan d c).ch.length = s.ch.length := by
  simp [State.setChan]

/-- Changing a channel by a function that keeps the reset record, beyond the table too (log entry 6). -/
theorem State.chan_setChan_map (s : State) (g : Channel → Channel) (hg : g Channel.reset = Channel.reset) (d e : Nat) :
    (s.setChan d (g (s.chan d))).chan e = if e = d then g (s.chan e) else s.chan e := by
  rw [State.chan_setChan]
  by_cases he : e = d
  · subst he
    by_cases hl : e < s.ch.length
    · simp [hl]
    · have : s.chan e = Channel.reset := by simp [State.chan, List.getElem?_eq_none (Nat.le_of_not_lt hl)]
      simp [this, hg, hl]
  · simp [he, Ne.symm he]

theorem closedChannel_reset : closedChannel Channel.reset = Channel.reset := rfl

theorem emptiedChannel_reset : emptiedChannel Channel.reset = Channel.reset := rfl

/-- ToClosed changes its own channel only, beyond the table too. -/
theorem State.chan_toClosed (s : State) (d e : Nat) :
    (s.toClosed d).chan e = if e = d then closedChannel (s.chan e) else s.chan e :=
  s.chan_setChan_map closedChannel closedChannel_reset d e

@[simp] theorem State.toClosed_length (s : State) (d : Nat) : (s.toClosed d).ch.length = s.ch.length :=
  s.setChan_length d _

/-- Raising the event of a channel that is closed under it changes only EVQ and EVOVF. -/
theorem State.raiseLoss_frame (s : State) (d : Nat) (r : Reason) :
    s.raiseLoss d r = { s with evq := (s.raiseLoss d r).evq, evOvf := (s.raiseLoss d r).evOvf } := by
  unfold State.raiseLoss; split <;> rfl

theorem State.raiseLoss_evq_prefix (s : State) (d : Nat) (r : Reason) : s.evq <+: (s.raiseLoss d r).evq := by
  unfold State.raiseLoss
  split
  · exact List.prefix_rfl
  · exact State.event_evq_prefix _ _ _ _ _

@[simp] theorem State.raiseLoss_ch (s : State) (d : Nat) (r : Reason) : (s.raiseLoss d r).ch = s.ch := by
  rw [State.raiseLoss_frame]

@[simp] theorem State.chan_raiseLoss (s : State) (d e : Nat) (r : Reason) : (s.raiseLoss d r).chan e = s.chan e :=
  State.chan_congr (s.raiseLoss_ch d r) e

/-- The record that closing a channel under it raises. -/
theorem State.raiseLoss_eq_raised (s : State) (h : s.evqFits) (d : Nat) (r : Reason) :
    s.raiseLoss d r = s.raised (lossRecord (reasonCode r) s d).toList := by
  unfold State.raiseLoss lossRecord
  cases (s.chan d).state <;> simp only [lossEvent, Option.toList]
  · exact (s.raised_nil h).symm
  all_goals exact s.event_eq_raised h _ _ _ _

theorem lossRecord_congr {s t : State} {d : Nat} (h : t.chan d = s.chan d) (reason : Byte) :
    lossRecord reason t d = lossRecord reason s d := by unfold lossRecord; rw [h]

/-- A relation that holds of every round of a fold holds of the fold. -/
theorem foldl_rel {α β : Type} (R : α → α → Prop) (refl : ∀ s, R s s) (trans : ∀ a b c, R a b → R b c → R a c)
    (f : α → β → α) (hf : ∀ s d, R s (f s d)) (l : List β) (s : α) : R s (l.foldl f s) := by
  induction l generalizing s with
  | nil => exact refl s
  | cons d l ih => exact trans _ _ _ (hf s d) (ih (f s d))

/-- A round over each channel of a list without repeats, changing that channel by `g`, changes them all by `g`. -/
theorem foldl_chan (f : State → Nat → State) (g : Channel → Channel)
    (hf : ∀ s d e, (f s d).chan e = if e = d then g (s.chan e) else s.chan e) (l : List Nat) (s : State)
    (hl : l.Nodup) (e : Nat) : (l.foldl f s).chan e = if e ∈ l then g (s.chan e) else s.chan e := by
  induction l generalizing s with
  | nil => simp
  | cons d l ih =>
    rw [List.nodup_cons] at hl
    rw [List.foldl_cons, ih _ hl.2, hf]
    by_cases he : e = d
    · subst he; simp [hl.1]
    · simp [he]

/-- A round over each channel of a list without repeats, raising the channel's record, raises the records in that order. -/
theorem foldl_raised (f : State → Nat → State) (reason : Byte)
    (hraise : ∀ s d, s.evqFits → (f s d).design = s.design ∧ (f s d).evq = (s.raised (lossRecord reason s d).toList).evq ∧
      (f s d).evOvf = (s.raised (lossRecord reason s d).toList).evOvf)
    (hchan : ∀ s d e, e ≠ d → (f s d).chan e = s.chan e) (l : List Nat) (s : State) (hl : l.Nodup) (hs : s.evqFits) :
    (l.foldl f s).evq = (s.raised (l.filterMap (lossRecord reason s))).evq ∧
      (l.foldl f s).evOvf = (s.raised (l.filterMap (lossRecord reason s))).evOvf := by
  induction l generalizing s with
  | nil => rw [List.filterMap_nil, State.raised_nil s hs]; exact ⟨rfl, rfl⟩
  | cons d l ih =>
    rw [List.nodup_cons] at hl
    obtain ⟨hd, hq, ho⟩ := hraise s d hs
    have hfits : (f s d).evqFits := by
      unfold State.evqFits
      rw [hd, hq]
      exact queued_fits _ _ _
    have hrest : l.filterMap (lossRecord reason (f s d)) = l.filterMap (lossRecord reason s) := by
      apply List.filterMap_congr
      intro e he
      exact lossRecord_congr (hchan s d e (by rintro rfl; exact hl.1 he)) reason
    have hcons : (d :: l).filterMap (lossRecord reason s) =
        (lossRecord reason s d).toList ++ l.filterMap (lossRecord reason s) := by
      rw [List.filterMap_cons]; cases lossRecord reason s d <;> rfl
    have h := ih (f s d) hl.2 hfits
    rw [hrest] at h
    rw [List.foldl_cons, h.1, h.2, hcons, ← State.raised_raised]
    simp only [State.raised, hd] at *
    rw [hq, ho]
    exact ⟨rfl, rfl⟩

/-- What a run of closings may change: the channel table, EVQ and EVOVF. -/
abbrev OnlyChannelsAndEvents (s t : State) : Prop := t = { s with ch := t.ch, evq := t.evq, evOvf := t.evOvf }

theorem OnlyChannelsAndEvents.trans (a b c : State) (h1 : OnlyChannelsAndEvents a b) (h2 : OnlyChannelsAndEvents b c) :
    OnlyChannelsAndEvents a c := by
  unfold OnlyChannelsAndEvents at *
  rw [h2, h1]

/-- One round of the cascade. -/
theorem State.cascadeOne_frame (s : State) (e : Nat) : OnlyChannelsAndEvents s (s.cascadeOne e) := by
  unfold OnlyChannelsAndEvents State.cascadeOne
  split
  · rfl
  · simp only [State.toClosed, State.setChan]
    rw [State.raiseLoss_frame]

theorem State.cascade_frame (s : State) : OnlyChannelsAndEvents s s.cascade :=
  foldl_rel OnlyChannelsAndEvents (fun _ => rfl) OnlyChannelsAndEvents.trans _ State.cascadeOne_frame _ s

/-- What closing a channel may change. -/
theorem State.closeWith_frame (s : State) (d : Nat) (k : EventKind) (a : Byte) :
    OnlyChannelsAndEvents s (s.closeWith d k a) := by
  unfold State.closeWith
  split
  · exact OnlyChannelsAndEvents.trans _ ((s.toClosed d).event k d a []) _ rfl (State.cascade_frame _)
  · rfl

/-- One lost channel. -/
theorem State.loseChannel_frame (s : State) (d : Nat) : OnlyChannelsAndEvents s (s.loseChannel d) := by
  unfold OnlyChannelsAndEvents State.loseChannel
  simp only [State.toClosed, State.setChan]
  rw [State.raiseLoss_frame]

theorem State.loseChannels_frame (s : State) (l : List Nat) : OnlyChannelsAndEvents s (l.foldl State.loseChannel s) :=
  foldl_rel OnlyChannelsAndEvents (fun _ => rfl) OnlyChannelsAndEvents.trans _ State.loseChannel_frame l s

theorem State.logicalChannels_nodup (s : State) : s.logicalChannels.Nodup := List.nodup_range'

theorem State.mem_logicalChannels (s : State) (d : Nat) : d ∈ s.logicalChannels ↔ 1 ≤ d ∧ d ≤ s.cfg.nch := by
  simp only [State.logicalChannels, List.mem_range'_1]; omega

theorem State.controlChannelLast_nodup (s : State) : s.controlChannelLast.Nodup := by
  refine List.Nodup.append s.logicalChannels_nodup (List.nodup_singleton 0) ?_
  simp [List.disjoint_singleton, State.mem_logicalChannels]

theorem State.mem_controlChannelLast (s : State) (d : Nat) : d ∈ s.controlChannelLast ↔ d ≤ s.cfg.nch := by
  simp only [State.controlChannelLast, List.mem_append, State.mem_logicalChannels, List.mem_singleton]; omega

/-- A channel after one round of the cascade. -/
theorem State.chan_cascadeOne (s : State) (d e : Nat) :
    (s.cascadeOne d).chan e =
      if e = d then (if (s.chan e).state = .closed then s.chan e else closedChannel (s.chan e)) else s.chan e := by
  unfold State.cascadeOne
  by_cases he : e = d
  · subst he
    by_cases hc : (s.chan e).state = .closed <;> simp [hc, State.chan_toClosed]
  · by_cases hc : (s.chan d).state = .closed <;> simp [hc, he, State.chan_toClosed]

/-- A channel after the cascade: a logical channel that was not Closed is closed (43_mux_control.md R178). -/
theorem State.chan_cascade (s : State) (e : Nat) :
    s.cascade.chan e =
      if 1 ≤ e ∧ e ≤ s.cfg.nch then (if (s.chan e).state = .closed then s.chan e else closedChannel (s.chan e))
      else s.chan e := by
  have := foldl_chan State.cascadeOne (fun c => if c.state = .closed then c else closedChannel c)
    State.chan_cascadeOne s.logicalChannels s s.logicalChannels_nodup e
  simp only [State.mem_logicalChannels] at this
  exact this

/-- The events of the cascade (43_mux_control.md R178). -/
theorem State.cascade_events (s : State) (h : s.evqFits) :
    s.cascade.evq = (s.raised (s.logicalChannels.filterMap (lossRecord 3 s))).evq ∧
      s.cascade.evOvf = (s.raised (s.logicalChannels.filterMap (lossRecord 3 s))).evOvf := by
  refine foldl_raised State.cascadeOne 3 ?_ ?_ _ s s.logicalChannels_nodup h
  · intro s d hs
    unfold State.cascadeOne
    split
    · next hc =>
      have : lossRecord 3 s d = none := by simp [lossRecord, hc]
      rw [this, Option.toList_none, State.raised_nil s hs]
      exact ⟨rfl, rfl, rfl⟩
    · rw [State.raiseLoss_eq_raised s hs]; exact ⟨rfl, rfl, rfl⟩
  · intro s d e he
    simp [State.chan_cascadeOne, he]

/-- A channel after CloseWith. -/
theorem State.chan_closeWith (s : State) (d : Nat) (k : EventKind) (a : Byte) (e : Nat) :
    (s.closeWith d k a).chan e =
      if e = d then closedChannel (s.chan e)
      else if d = 0 ∧ 1 ≤ e ∧ e ≤ s.cfg.nch ∧ (s.chan e).state ≠ .closed then closedChannel (s.chan e) else s.chan e := by
  unfold State.closeWith
  by_cases hd : d = 0
  · subst hd
    simp only [↓reduceIte, State.chan_cascade, State.chan_event, State.chan_toClosed, State.event_cfg]
    have hcfg : (s.toClosed 0).cfg = s.cfg := rfl
    rw [hcfg]
    by_cases he : e = 0
    · subst he; simp
    · by_cases h1 : e ≤ s.cfg.nch <;> by_cases h2 : (s.chan e).state = .closed <;>
        simp [he, h1, h2, Nat.one_le_iff_ne_zero]
  · simp [hd, State.chan_toClosed]

/-- A channel after the link is lost (43_mux_control.md R175). -/
theorem State.chan_loseChannels (s : State) (l : List Nat) (hl : l.Nodup) (e : Nat) :
    (l.foldl State.loseChannel s).chan e = if e ∈ l then closedChannel (s.chan e) else s.chan e :=
  foldl_chan State.loseChannel closedChannel
    (fun s d e => by unfold State.loseChannel; rw [State.chan_toClosed]; simp) l s hl e

/-- The events of a lost link (43_mux_control.md R175). -/
theorem State.loseChannels_events (s : State) (h : s.evqFits) (l : List Nat) (hl : l.Nodup) :
    (l.foldl State.loseChannel s).evq = (s.raised (l.filterMap (lossRecord 2 s))).evq ∧
      (l.foldl State.loseChannel s).evOvf = (s.raised (l.filterMap (lossRecord 2 s))).evOvf := by
  refine foldl_raised State.loseChannel 2 ?_ ?_ _ s hl h
  · intro s d hs
    unfold State.loseChannel
    rw [State.raiseLoss_eq_raised s hs]; exact ⟨rfl, rfl, rfl⟩
  · intro s d e he
    unfold State.loseChannel
    simp [State.chan_toClosed, he]

/-- What tearing channels down may change: the channel table, the events and the transmit stream. -/
abbrev OnlyChannelsEventsAndTransmit (s t : State) : Prop :=
  t = { s with ch := t.ch, evq := t.evq, evOvf := t.evOvf, tx := t.tx, txFrameCnt := t.txFrameCnt, writing := t.writing }

theorem OnlyChannelsEventsAndTransmit.trans (a b c : State) (h1 : OnlyChannelsEventsAndTransmit a b)
    (h2 : OnlyChannelsEventsAndTransmit b c) : OnlyChannelsEventsAndTransmit a c := by
  unfold OnlyChannelsEventsAndTransmit at *
  rw [h2, h1]

theorem State.tearChannel_frame (s : State) (d : Nat) : OnlyChannelsEventsAndTransmit s (s.tearChannel d) := by
  unfold OnlyChannelsEventsAndTransmit State.tearChannel
  simp only [State.toClosed, State.setChan]
  rw [State.raiseLoss_frame]
  split <;> rfl

theorem State.tearChannels_frame (s : State) (l : List Nat) :
    OnlyChannelsEventsAndTransmit s (l.foldl State.tearChannel s) :=
  foldl_rel OnlyChannelsEventsAndTransmit (fun _ => rfl) OnlyChannelsEventsAndTransmit.trans _
    State.tearChannel_frame l s

/-- One channel torn down ends Closed and empty, and no other changes (43_mux_control.md R176). -/
theorem State.chan_tearChannel (s : State) (d e : Nat) :
    (s.tearChannel d).chan e = if e = d then Channel.reset else s.chan e := by
  unfold State.tearChannel
  simp only
  rw [State.chan_setChan_map _ _ emptiedChannel_reset, State.chan_toClosed, State.chan_raiseLoss]
  have : (if (s.chan d).state = .opened then s.sendDisc d else s).chan e = s.chan e := by split <;> rfl
  rw [this]
  by_cases he : e = d <;> simp [he, emptiedChannel, closedChannel, Channel.reset]

theorem State.chan_tearChannels (s : State) (l : List Nat) (hl : l.Nodup) (e : Nat) :
    (l.foldl State.tearChannel s).chan e = if e ∈ l then Channel.reset else s.chan e :=
  foldl_chan State.tearChannel (fun _ => Channel.reset) State.chan_tearChannel l s hl e

/-- The events of TEARDOWN (43_mux_control.md R176). -/
theorem State.tearChannels_events (s : State) (h : s.evqFits) (l : List Nat) (hl : l.Nodup) :
    (l.foldl State.tearChannel s).evq = (s.raised (l.filterMap (lossRecord 4 s))).evq ∧
      (l.foldl State.tearChannel s).evOvf = (s.raised (l.filterMap (lossRecord 4 s))).evOvf := by
  refine foldl_raised State.tearChannel 4 ?_ ?_ _ s hl h
  · intro s d hs
    unfold State.tearChannel
    simp only
    split
    · rw [State.raiseLoss_eq_raised _ (by exact hs)]; exact ⟨rfl, rfl, rfl⟩
    · rw [State.raiseLoss_eq_raised s hs]; exact ⟨rfl, rfl, rfl⟩
  · intro s d e he
    simp [State.chan_tearChannel, he]

/-- The frames of TEARDOWN: DISC on each Open channel, in order (43_mux_control.md R176). -/
theorem State.tearChannels_tx (s : State) (l : List Nat) (hl : l.Nodup) :
    (l.foldl State.tearChannel s).tx = s.tx ++
        ((l.filter (fun d => (s.chan d).state == .opened)).map
          (fun d => encodeFrame s.cfg (BitVec.ofNat 6 d) s.cmdCR 0x53#8 [])).flatten ∧
      (l.foldl State.tearChannel s).txFrameCnt =
        satInc^[(l.filter (fun d => (s.chan d).state == .opened)).length] s.txFrameCnt := by
  induction l generalizing s with
  | nil => simp
  | cons d l ih =>
    rw [List.nodup_cons] at hl
    have hframe := s.tearChannel_frame d
    have hcfg : (s.tearChannel d).cfg = s.cfg := by rw [hframe]
    have hcr : (s.tearChannel d).cmdCR = s.cmdCR := by rw [hframe]; rfl
    have hrest : l.filter (fun e => ((s.tearChannel d).chan e).state == .opened) =
        l.filter (fun e => (s.chan e).state == .opened) := by
      apply List.filter_congr
      intro e he
      rw [State.chan_tearChannel, if_neg (by rintro rfl; exact hl.1 he)]
    have h := ih (s.tearChannel d) hl.2
    rw [hrest, hcfg, hcr] at h
    rw [List.foldl_cons, h.1, h.2]
    by_cases hc : (s.chan d).state = .opened
    · have htx : (s.tearChannel d).tx = s.tx ++ encodeFrame s.cfg (BitVec.ofNat 6 d) s.cmdCR 0x53#8 [] := by
        simp only [State.tearChannel, hc, ↓reduceIte, State.toClosed, State.setChan]
        rw [State.raiseLoss_frame]; rfl
      have hcnt : (s.tearChannel d).txFrameCnt = satInc s.txFrameCnt := by
        simp only [State.tearChannel, hc, ↓reduceIte, State.toClosed, State.setChan]
        rw [State.raiseLoss_frame]; rfl
      rw [htx, hcnt, List.filter_cons_of_pos (by simp [hc])]
      simp [List.append_assoc]
    · have htx : (s.tearChannel d).tx = s.tx := by
        simp only [State.tearChannel, hc, ↓reduceIte, State.toClosed, State.setChan]
        rw [State.raiseLoss_frame]
      have hcnt : (s.tearChannel d).txFrameCnt = s.txFrameCnt := by
        simp only [State.tearChannel, hc, ↓reduceIte, State.toClosed, State.setChan]
        rw [State.raiseLoss_frame]
      rw [htx, hcnt, List.filter_cons_of_neg (by simp [hc])]
      exact ⟨rfl, rfl⟩

end Sys2Proof.Machine
end

