-- ==== Sys2Proof/Laws/Codec.lean ====
section
/-! SUPPORT. Small laws of the fields of an encoding, the length field, byte stuffing, the FCS register and the pieces of WRITE. -/

namespace Sys2Proof

/-! ### Fields of an encoding (30_encoding.md R72, R74, R84) -/

@[simp] theorem wordOp_commandWord (op : BitVec 4) (d : Dlci) (n : Arg) : wordOp (commandWord op d n) = op := by
  simp only [wordOp, commandWord]
  ext i hi
  simp only [BitVec.getElem_extractLsb', BitVec.getLsbD_or, BitVec.getLsbD_shiftLeft, BitVec.getLsbD_setWidth]
  have h1 : 12 + i < 16 := by omega
  have h2 : ¬ 12 + i < 12 := by omega
  have h3 : ¬ 12 + i < 6 := by omega
  simp [h1, BitVec.getLsbD_of_ge d (12 + i - 6) (by omega), BitVec.getLsbD_of_ge n (12 + i) (by omega), hi, show i < 16 by omega]

@[simp] theorem wordDlci_commandWord (op : BitVec 4) (d : Dlci) (n : Arg) : wordDlci (commandWord op d n) = d := by
  simp only [wordDlci, commandWord]
  ext i hi
  simp only [BitVec.getElem_extractLsb', BitVec.getLsbD_or, BitVec.getLsbD_shiftLeft, BitVec.getLsbD_setWidth]
  have h1 : 6 + i < 12 := by omega
  have h2 : 6 + i < 16 := by omega
  simp [h1, h2, hi, show i < 16 by omega]

@[simp] theorem wordArg_commandWord (op : BitVec 4) (d : Dlci) (n : Arg) : wordArg (commandWord op d n) = n := by
  simp only [wordArg, commandWord]
  ext i hi
  simp only [BitVec.getElem_extractLsb', BitVec.getLsbD_or, BitVec.getLsbD_shiftLeft, BitVec.getLsbD_setWidth]
  simp [hi, show i < 12 by omega, show i < 16 by omega]

@[simp] theorem commandWord_fields (w : CommandWord) : commandWord (wordOp w) (wordDlci w) (wordArg w) = w := by
  simp only [wordOp, wordDlci, wordArg, commandWord]
  ext i hi
  simp only [BitVec.getElem_or, BitVec.getElem_shiftLeft, BitVec.getElem_setWidth,
    BitVec.getLsbD_extractLsb']
  by_cases h1 : i < 6
  · simp [h1, show i < 12 by omega, BitVec.getLsbD_eq_getElem hi]
  · by_cases h2 : i < 12
    · simp [h1, h2, show i - 6 < 6 by omega, show 6 + (i - 6) = i by omega,
        BitVec.getLsbD_eq_getElem hi]
    · simp [h1, h2, show i - 12 < 4 by omega, show ¬ i - 6 < 6 by omega,
        show 12 + (i - 12) = i by omega, BitVec.getLsbD_eq_getElem hi]

@[simp] theorem addressDlci_addressByte (d : Dlci) (cr : Bool) : addressDlci (addressByte d cr) = d := by
  cases cr <;> revert d <;> decide

@[simp] theorem commandResponse_addressByte (d : Dlci) (cr : Bool) : commandResponse (addressByte d cr) = cr := by
  cases cr <;> revert d <;> decide

@[simp] theorem extensionBit_addressByte (d : Dlci) (cr : Bool) : extensionBit (addressByte d cr) = true := by
  cases cr <;> revert d <;> decide

/-- An address byte with EA = 1 is made of its fields. -/
theorem addressByte_fields (a : Byte) (h : extensionBit a = true) :
    addressByte (addressDlci a) (commandResponse a) = a := by
  revert a; decide

/-- The type and the P/F bit of a control byte of one of the six types (30_encoding.md R74). -/
theorem frameTypeOf_controlByte (pf : Bool) :
    frameTypeOf (controlByte 0x2F#8 pf) = .sabm ∧ frameTypeOf (controlByte 0x63#8 pf) = .ua ∧
    frameTypeOf (controlByte 0x0F#8 pf) = .dm ∧ frameTypeOf (controlByte 0x43#8 pf) = .disc ∧
    frameTypeOf (controlByte 0xEF#8 pf) = .uih ∧ frameTypeOf (controlByte 0x03#8 pf) = .ui := by
  revert pf; decide

theorem pollFinal_controlByte (pf : Bool) :
    pollFinal (controlByte 0x2F#8 pf) = pf ∧ pollFinal (controlByte 0x63#8 pf) = pf ∧
    pollFinal (controlByte 0x0F#8 pf) = pf ∧ pollFinal (controlByte 0x43#8 pf) = pf ∧
    pollFinal (controlByte 0xEF#8 pf) = pf ∧ pollFinal (controlByte 0x03#8 pf) = pf := by
  revert pf; decide

/-- A control byte is its type and its P/F bit, or reserved. -/
theorem controlByte_fields (c : Byte) :
    (frameTypeOf c = .sabm → controlByte 0x2F#8 (pollFinal c) = c) ∧
    (frameTypeOf c = .ua → controlByte 0x63#8 (pollFinal c) = c) ∧
    (frameTypeOf c = .dm → controlByte 0x0F#8 (pollFinal c) = c) ∧
    (frameTypeOf c = .disc → controlByte 0x43#8 (pollFinal c) = c) ∧
    (frameTypeOf c = .uih → controlByte 0xEF#8 (pollFinal c) = c) ∧
    (frameTypeOf c = .ui → controlByte 0x03#8 (pollFinal c) = c) ∧
    (frameTypeOf c = .reserved ↔ controlIsReserved c = true) := by
  revert c; decide

namespace Machine

/-! ### The length field (30_encoding.md R76, R77) -/

/-- A one-byte length field holds its length, and a two-byte field too. -/
theorem lenField_short (l : Nat) (h : l ≤ 127) :
    ∃ l0 : Byte, lenField l = [l0] ∧ extensionBit l0 = true ∧ oneByteLength l0 = l := by
  refine ⟨BitVec.ofNat 8 ((l <<< 1) ||| 1), by simp [lenField, h], ?_⟩
  have : ∀ k : Fin 128, extensionBit (BitVec.ofNat 8 ((k.val <<< 1) ||| 1)) = true ∧
      oneByteLength (BitVec.ofNat 8 ((k.val <<< 1) ||| 1)) = k.val := by decide
  exact this ⟨l, by omega⟩

theorem twoByteLength_eq (l0 l1 : Byte) : twoByteLength l0 l1 = l0.toNat / 2 + 128 * l1.toNat := by
  unfold twoByteLength
  rw [Nat.lor_comm, ← Nat.shiftLeft_add_eq_or_of_lt (by have := l0.isLt; simp [BitVec.toNat_ushiftRight, Nat.shiftRight_eq_div_pow]; omega)]
  simp [BitVec.toNat_ushiftRight, Nat.shiftRight_eq_div_pow, Nat.shiftLeft_eq]
  omega

theorem oneByteLength_eq (l0 : Byte) : oneByteLength l0 = l0.toNat / 2 := by
  simp [oneByteLength, BitVec.toNat_ushiftRight, Nat.shiftRight_eq_div_pow]

theorem lenField_long (l : Nat) (h : 127 < l) (h2 : l ≤ 32767) :
    ∃ l0 l1 : Byte, lenField l = [l0, l1] ∧ extensionBit l0 = false ∧ twoByteLength l0 l1 = l := by
  have hand : (l <<< 1) &&& 0xFE = 2 * (l % 128) := by
    apply Nat.eq_of_testBit_eq
    intro i
    rw [Nat.testBit_and, Nat.testBit_shiftLeft]
    have h7 : 2 * (l % 128) = (l % 2 ^ 7) <<< 1 := by rw [Nat.shiftLeft_eq]; omega
    rw [h7, Nat.testBit_shiftLeft, Nat.testBit_mod_two_pow]
    rcases Nat.lt_or_ge i 8 with hi | hi
    · have : ∀ j : Fin 8, Nat.testBit 0xFE j.val = decide (1 ≤ j.val) := by decide
      rw [this ⟨i, hi⟩]
      by_cases h1 : 1 ≤ i
      · simp [h1, show i - 1 < 7 by omega]
      · simp [h1]
    · have : Nat.testBit 0xFE i = false := Nat.testBit_lt_two_pow (Nat.lt_of_lt_of_le (by decide : 0xFE < 2 ^ 8)
        (Nat.pow_le_pow_right (by decide) hi))
      simp [this, show ¬ i - 1 < 7 by omega]
  refine ⟨BitVec.ofNat 8 (2 * (l % 128)), BitVec.ofNat 8 (l / 128), ?_, ?_, ?_⟩
  · rw [lenField, if_neg (by omega), hand, Nat.shiftRight_eq_div_pow]
  · unfold extensionBit
    rw [BitVec.getLsbD_ofNat]
    simp
  · rw [twoByteLength_eq]
    simp only [BitVec.toNat_ofNat]
    omega

/-! ### Stuffing (30_encoding.md R78, R79) -/

@[simp] theorem stuff_nil : stuff [] = [] := rfl

@[simp] theorem stuff_cons (b : Byte) (bs : List Byte) : stuff (b :: bs) = stuffByte b ++ stuff bs := rfl

@[simp] theorem stuff_append (a b : List Byte) : stuff (a ++ b) = stuff a ++ stuff b := List.flatMap_append

/-- A byte that is neither the flag nor the escape is sent as it is, the other two as an escape and the byte xored with 0x20. -/
theorem stuffByte_cases (b : Byte) :
    (b ≠ flagByte .advanced ∧ b ≠ escapeByte ∧ stuffByte b = [b]) ∨
    (∃ x : Byte, stuffByte b = [escapeByte, x] ∧ x ^^^ escapeMask = b ∧ x ≠ flagByte .advanced) := by
  by_cases h1 : b = flagByte .advanced
  · exact .inr ⟨0x5E#8, by simp [stuffByte, h1], by subst h1; decide, by decide⟩
  · by_cases h2 : b = escapeByte
    · exact .inr ⟨0x5D#8, by subst h2; simp [stuffByte, escapeByte, flagByte], by subst h2; decide, by decide⟩
    · exact .inl ⟨h1, h2, by simp [stuffByte, h1, h2]⟩

/-! ### The FCS register (40_crc.md R101 to R106) -/

theorem crcRegister_append (a b : List Byte) : crcRegister (a ++ b) = b.foldl crcStep (crcRegister a) := by
  simp [crcRegister]

/-- One byte leads two registers to the same value only from the same value. -/
theorem crcStep_cancel (c : Byte) (x y : Byte) (h : crcStep c x = crcStep c y) : x = y := by
  have inj : ∀ u v : Byte, crcShifts 8 u = crcShifts 8 v → u = v := by
    have back : ∀ u : Byte, (if (crcShift u).getLsbD 7 then ((crcShift u ^^^ 0xE0#8) <<< 1) ||| 1#8
        else crcShift u <<< 1) = u := by decide
    have shift : ∀ u v : Byte, crcShift u = crcShift v → u = v := by
      intro u v huv
      rw [← back u, ← back v, huv]
    intro u v huv
    simp only [crcShifts] at huv
    exact shift _ _ (shift _ _ (shift _ _ (shift _ _ (shift _ _ (shift _ _ (shift _ _ (shift _ _ huv)))))))
  have := inj _ _ h
  exact (BitVec.xor_right_inj c).mp this

/-! ### The pieces of WRITE (44_data_path.md R210) -/

theorem pieces_flatten (n : Nat) (h : 1 ≤ n) (k : Nat) (data : List Byte) (hk : data.length ≤ k) :
    (pieces n k data).flatten = data := by
  induction k generalizing data with
  | zero => have := List.length_eq_zero_iff.mp (Nat.le_zero.mp hk); subst this; rfl
  | succ k ih =>
    cases data with
    | nil => rfl
    | cons b bs =>
      simp only [pieces, List.flatten_cons]
      rw [ih _ (by simp only [List.length_drop, List.length_cons] at *; omega), List.take_append_drop]

theorem pieces_length (n : Nat) (h : 1 ≤ n) (k : Nat) (data : List Byte) :
    ∀ p ∈ pieces n k data, 1 ≤ p.length ∧ p.length ≤ n := by
  induction k generalizing data with
  | zero => simp [pieces]
  | succ k ih =>
    cases data with
    | nil => simp [pieces]
    | cons b bs =>
      intro p hp
      rcases List.mem_cons.mp hp with rfl | hp
      · simp only [List.length_take, List.length_cons]; omega
      · exact ih _ p hp

/-- A piece is never longer than a frame can carry, even for a frame that carries nothing. -/
theorem pieces_length_le (n k : Nat) (data : List Byte) : ∀ p ∈ pieces n k data, p.length ≤ n := by
  induction k generalizing data with
  | zero => simp [pieces]
  | succ k ih =>
    cases data with
    | nil => simp [pieces]
    | cons b bs =>
      intro p hp
      rcases List.mem_cons.mp hp with rfl | hp
      · simp only [List.length_take]; omega
      · exact ih _ p hp

theorem pieces_dropLast (n : Nat) (h : 1 ≤ n) (k : Nat) (data : List Byte) (hk : data.length ≤ k) :
    ∀ p ∈ (pieces n k data).dropLast, p.length = n := by
  induction k generalizing data with
  | zero => simp [pieces]
  | succ k ih =>
    cases data with
    | nil => simp [pieces]
    | cons b bs =>
      intro p hp
      have hlen : ((b :: bs).drop n).length ≤ k := by
        simp only [List.length_drop, List.length_cons] at *; omega
      cases hrest : pieces n k ((b :: bs).drop n) with
      | nil => simp [pieces, hrest] at hp
      | cons q qs =>
        have hne : (b :: bs).drop n ≠ [] := by
          intro h0; rw [h0] at hrest; cases k <;> simp [pieces] at hrest
        have hp2 : p = (b :: bs).take n ∨ p ∈ (pieces n k ((b :: bs).drop n)).dropLast := by
          simpa [pieces, hrest] using hp
        rcases hp2 with rfl | hp2
        · rw [List.length_take]
          have := List.length_pos_iff.mpr hne
          rw [List.length_drop] at this
          omega
        · exact ih _ hlen p hp2

/-- A run of UIH frames on one channel. -/
theorem foldl_sendUih (s : State) (d : Nat) (ps : List (List Byte)) :
    ps.foldl (fun t p => t.sendUih d p) s =
      { s with
        tx := s.tx ++ (ps.map (encodeFrame s.cfg (BitVec.ofNat 6 d) s.cmdCR 0xEF#8)).flatten
        txFrameCnt := satInc^[ps.length] s.txFrameCnt
        writing := s.writing || !ps.isEmpty } := by
  induction ps generalizing s with
  | nil => simp
  | cons p ps ih =>
    rw [List.foldl_cons, ih]
    have hcr : (s.sendUih d p).cmdCR = s.cmdCR := rfl
    rw [hcr]
    simp [State.sendUih, State.sendFrame, State.emit, Function.iterate_succ_apply]

end Machine

end Sys2Proof
end

