-- ==== Sys2Proof/Laws/Operands.lean ====
section
/-! SUPPORT. What each operand check of a command decides, and what a received control message is read as. -/

namespace Sys2Proof.Machine

/-! ### Operand checks (30_encoding.md R86) -/

@[simp] theorem noOperands_zero : noOperands 0 0 = true := rfl

theorem noOperands_iff (d : Dlci) (n : Arg) : noOperands d n = true ↔ d = 0 ∧ n = 0 := by
  simp [noOperands]

theorem noOperands_false (d : Dlci) (n : Arg) (h : d ≠ 0 ∨ n ≠ 0) : noOperands d n = false := by
  rw [← Bool.not_eq_true, noOperands_iff]
  rintro ⟨h1, h2⟩
  exact h.elim (· h1) (· h2)

@[simp] theorem noArgument_zero : noArgument 0 = true := rfl

theorem noArgument_iff (n : Arg) : noArgument n = true ↔ n = 0 := by simp [noArgument]

theorem noArgument_false (n : Arg) (h : n ≠ 0) : noArgument n = false := by
  rw [← Bool.not_eq_true, noArgument_iff]; exact h

theorem controlMessageLegal_iff (data : List Byte) :
    controlMessageLegal data = true ↔ ∃ t value, data = t :: value ∧ t.getLsbD 0 = true := by
  cases data <;> simp [controlMessageLegal, extensionBit]

theorem State.servesChannel_iff (s : State) (d : Dlci) : s.servesChannel d = true ↔ d.toNat ≤ s.cfg.nch := by
  simp [State.servesChannel]

theorem State.isLogicalChannel_iff (s : State) (d : Dlci) :
    s.isLogicalChannel d = true ↔ 1 ≤ d.toNat ∧ d.toNat ≤ s.cfg.nch := by
  simp [State.isLogicalChannel]

/-! ### The channels a command looks over (43_mux_control.md R172, R173) -/

theorem State.lowestClosed_none (s : State) :
    s.lowestClosed = none ↔ ∀ d, 1 ≤ d → d ≤ s.cfg.nch → (s.chan d).state ≠ .closed := by
  simp only [State.lowestClosed, List.find?_eq_none, State.mem_logicalChannels, decide_eq_true_eq, and_imp]

theorem State.lowestClosed_some (s : State) (e : Nat) :
    s.lowestClosed = some e ↔ 1 ≤ e ∧ e ≤ s.cfg.nch ∧ (s.chan e).state = .closed ∧
      ∀ d, 1 ≤ d → d < e → (s.chan d).state ≠ .closed := by
  unfold State.lowestClosed State.logicalChannels
  rw [List.find?_range'_eq_some]
  simp only [decide_eq_true_eq, List.mem_range'_1, Bool.not_eq_eq_eq_not, Bool.not_true, decide_eq_false_iff_not]
  constructor
  · rintro ⟨h1, h2, h3⟩
    exact ⟨h2.1, by omega, h1, h3⟩
  · rintro ⟨h1, h2, h3, h4⟩
    exact ⟨h3, ⟨h1, by omega⟩, h4⟩

theorem State.logicalAllClosed_iff (s : State) :
    s.logicalAllClosed = true ↔ ∀ d, 1 ≤ d → d ≤ s.cfg.nch → (s.chan d).state = .closed := by
  simp [State.logicalAllClosed, State.mem_logicalChannels]

/-! ### Data operands (44_data_path.md R211, R212, R217) -/

theorem readCount_eq (n : Arg) (len : Nat) :
    readCount n len = if n.toNat = 0 then len else min n.toNat len := by
  unfold readCount
  by_cases h : n = 0
  · subst h; rfl
  · have : n.toNat ≠ 0 := fun h0 => h (BitVec.eq_of_toNat_eq h0)
    rw [if_neg h, if_neg this]

/-- READ removes no more than the buffer holds. -/
theorem readCount_le (n : Arg) (len : Nat) : readCount n len ≤ len := by
  rw [readCount_eq]; split <;> omega

/-- ARG 0 removes the whole buffer, however long (44_data_path.md R211). -/
@[simp] theorem readCount_all (len : Nat) : readCount 0 len = len := by simp [readCount_eq]

/-- A finite P_BUFCAP in its range keeps every buffer within the 65535 bytes of RVAL (00_scope.md R13, 20_memory.md R63,
30_encoding.md R87). -/
theorem State.buf_length_le (s : State) (hc : s.configured) (hw : s.withinCapacity) (hf : s.design.bufCap ≠ none)
    (d : Nat) : (s.chan d).buf.length ≤ 65535 := by
  obtain ⟨cap, hcap⟩ := Option.ne_none_iff_exists'.mp hf
  have hle : cap ≤ 65535 := by
    simp only [State.configured, configInRange, hcap, capacityInRange, Bool.and_eq_true, decide_eq_true_eq] at hc
    omega
  by_cases hd : d < s.ch.length
  · have := hw.1 _ (List.getElem_mem hd)
    simp only [hcap, fitsCapacity, decide_eq_true_eq] at this
    simp only [State.chan, List.getD_eq_getElem?_getD, List.getElem?_eq_getElem hd, Option.getD_some]
    omega
  · simp [State.chan, List.getElem?_eq_none (Nat.le_of_not_lt hd), Channel.reset]

theorem State.controlMessageFits_iff (s : State) (t : Byte) (value : List Byte) :
    s.controlMessageFits (t :: value) = true ↔
      value.length ≤ 32767 ∧ 1 + (lenField value.length).length + value.length ≤ s.cfg.maxLen := by
  simp [State.controlMessageFits]

/-- A buffer overflows where the bytes do not fit its capacity. -/
theorem State.overflows_eq (s : State) (len n : Nat) : s.overflows len n = !fitsCapacity (len + n) s.design.bufCap := by
  unfold State.overflows fitsCapacity
  cases s.design.bufCap with
  | none => rfl
  | some k => simp only [← decide_not, Nat.not_le]

/-! ### Received control messages (44_data_path.md R218) -/

/-- A message with a one-byte length. -/
theorem parseControlMessage_short (t l0 : Byte) (value : List Byte) (ht : t.getLsbD 0 = true) (hl : l0.getLsbD 0 = true) :
    parseControlMessage (t :: l0 :: value) = if value.length = l0.toNat / 2 then some (t, value) else none := by
  simp only [parseControlMessage, extensionBit, ht, hl, oneByteLength_eq, Bool.true_eq_false, ↓reduceIte]

/-- A message with a two-byte length. -/
theorem parseControlMessage_long (t l0 l1 : Byte) (value : List Byte) (ht : t.getLsbD 0 = true)
    (hl : l0.getLsbD 0 = false) :
    parseControlMessage (t :: l0 :: l1 :: value) =
      if value.length = l0.toNat / 2 + 128 * l1.toNat then some (t, value) else none := by
  simp only [parseControlMessage, extensionBit, ht, hl, twoByteLength_eq, Bool.true_eq_false, Bool.false_eq_true,
    ↓reduceIte]

/-- What is read from a payload came from it. -/
theorem parseControlMessage_some (p : List Byte) (t : Byte) (value : List Byte)
    (h : parseControlMessage p = some (t, value)) :
    t.getLsbD 0 = true ∧
      ((∃ l0, p = t :: l0 :: value ∧ l0.getLsbD 0 = true ∧ value.length = l0.toNat / 2) ∨
        ∃ l0 l1, p = t :: l0 :: l1 :: value ∧ l0.getLsbD 0 = false ∧
          value.length = l0.toNat / 2 + 128 * l1.toNat) := by
  unfold parseControlMessage at h
  split at h
  · next t' l0 rest =>
    split at h
    · cases h
    · next ht =>
      split at h
      · next hl =>
        split at h
        · next hlen =>
          cases h
          rw [oneByteLength_eq] at hlen
          exact ⟨by simpa [extensionBit] using ht, .inl ⟨l0, rfl, hl, hlen⟩⟩
        · cases h
      · next hl =>
        split at h
        · cases h
        · next l1 value' =>
          split at h
          · next hlen =>
            cases h
            rw [twoByteLength_eq] at hlen
            exact ⟨by simpa [extensionBit] using ht, .inr ⟨l0, l1, rfl, by simpa [extensionBit] using hl, hlen⟩⟩
          · cases h
  · cases h

end Sys2Proof.Machine
end

