-- ==== Sys2Proof/Laws/Moves.lean ====
section
/-! SUPPORT. What any operation but EVPOP, CLRSTAT and RESET is composed of: a run of moves, each one shared operation. A property that every move keeps is kept by every such operation. -/

namespace Sys2Proof.Machine

/-- One shared operation, with what is known where an operation of the block uses it. -/
inductive Move (s : State) : State → Prop
  | reply (r : Reply) : Move s (s.withReply r)
  | event (k : EventKind) (d : Nat) (a : Byte) (x : List Byte) (hd : d ≤ s.cfg.nch) (hx : k ≠ .ctrlRx → x = []) :
    Move s (s.event k d a x)
  | send (d : Nat) (cr : Bool) (c : Byte) (p : List Byte) (h : OutFrame.legal s.cfg ⟨BitVec.ofNat 6 d, cr, c, p⟩) :
    Move s (s.sendFrame d cr c p)
  | error (k : FrameErrorKind) : Move s (s.frameError k)
  | good : Move s s.goodFrame
  | hunted : Move s s.countHunted
  | dropped : Move s s.dropData
  | badMessage : Move s { s with frameErrCnt := satInc s.frameErrCnt }
  | chan (d : Nat) (c : Channel) (hd : d ≤ s.cfg.nch)
    (hb : c.buf.length ≤ (s.chan d).buf.length ∨ fitsCapacity c.buf.length s.design.bufCap = true) :
    Move s (s.setChan d c)
  | role (r : Role) : Move s { s with role := r }
  | decoder (dec : Decoder) : Move s { s with dec := dec }
  | linkLost (l : LinkState) (h : l ≠ .up) : Move s { s with link := l, writing := false }

/-- A run of moves. -/
abbrev Moves : State → State → Prop := Relation.ReflTransGen Move

/-- What a run of moves never changes. -/
theorem Move.fixed {s t : State} (h : Move s t) :
    t.design = s.design ∧ t.pins = s.pins ∧ t.cfg = s.cfg ∧ t.pending = s.pending := by
  cases h <;> simp [State.dropData]

theorem Moves.fixed {s t : State} (h : Moves s t) :
    t.design = s.design ∧ t.pins = s.pins ∧ t.cfg = s.cfg ∧ t.pending = s.pending := by
  induction h with
  | refl => exact ⟨rfl, rfl, rfl, rfl⟩
  | tail _ h ih =>
    obtain ⟨h1, h2, h3, h4⟩ := h.fixed
    rw [h1, h2, h3, h4]; exact ih

/-- A relation between states that is reflexive, transitive and kept by every move holds of a run of moves. -/
theorem Moves.rel (R : State → State → Prop) (refl : ∀ s, R s s) (trans : ∀ a b c, R a b → R b c → R a c)
    (move : ∀ s t, Move s t → R s t) {s t : State} (h : Moves s t) : R s t := by
  induction h with
  | refl => exact refl _
  | tail _ h ih => exact trans _ _ _ ih (move _ _ h)

/-! ### The shared operations as moves -/

/-- The control bytes of the frames the block sends without a payload (41_encoder.md R117 to R120). -/
theorem OutFrame.legal_bare (c : Cfg) (d : Dlci) (cr : Bool) (control : Byte)
    (h : control ∈ [0x3F#8, 0x53#8, 0x63#8, 0x73#8, 0x0F#8, 0x1F#8, 0xEF#8]) :
    OutFrame.legal c ⟨d, cr, control, []⟩ := ⟨h, fun _ => rfl, Nat.zero_le _⟩

theorem OutFrame.legal_uih (c : Cfg) (d : Dlci) (cr : Bool) (p : List Byte) (h : p.length ≤ c.maxLen) :
    OutFrame.legal c ⟨d, cr, 0xEF#8, p⟩ := ⟨by simp, fun h => absurd rfl h, h⟩

theorem State.sendSabm_move (s : State) (d : Nat) : Move s (s.sendSabm d) :=
  .send d s.cmdCR 0x3F#8 [] (OutFrame.legal_bare _ _ _ _ (by simp))

theorem State.sendDisc_move (s : State) (d : Nat) : Move s (s.sendDisc d) :=
  .send d s.cmdCR 0x53#8 [] (OutFrame.legal_bare _ _ _ _ (by simp))

theorem State.sendUa_move (s : State) (d : Nat) (pf : Bool) : Move s (s.sendUa d pf) :=
  .send d s.rspCR (controlByte 0x63#8 pf) [] (OutFrame.legal_bare _ _ _ _ (by cases pf <;> decide))

theorem State.sendDm_move (s : State) (d : Nat) (pf : Bool) : Move s (s.sendDm d pf) :=
  .send d s.rspCR (controlByte 0x0F#8 pf) [] (OutFrame.legal_bare _ _ _ _ (by cases pf <;> decide))

theorem State.sendUih_move (s : State) (d : Nat) (p : List Byte) (h : p.length ≤ s.cfg.maxLen) :
    Move s (s.sendUih d p) := .send d s.cmdCR 0xEF#8 p (OutFrame.legal_uih _ _ _ _ h)

/-- A channel update that leaves the buffer or empties it. -/
theorem State.setChan_move (s : State) (d : Nat) (c : Channel) (hd : d ≤ s.cfg.nch)
    (h : c.buf.length ≤ (s.chan d).buf.length) : Move s (s.setChan d c) := .chan d c hd (.inl h)

theorem State.toClosed_move (s : State) (d : Nat) (hd : d ≤ s.cfg.nch) : Move s (s.toClosed d) :=
  s.setChan_move d _ hd (by exact Nat.le_refl _)

theorem State.raiseLoss_moves (s : State) (d : Nat) (r : Reason) (hd : d ≤ s.cfg.nch) : Moves s (s.raiseLoss d r) := by
  unfold State.raiseLoss
  split
  · exact .refl
  · exact .single (.event _ d _ [] hd (fun _ => rfl))

theorem State.raiseLoss_cfg (s : State) (d : Nat) (r : Reason) : (s.raiseLoss d r).cfg = s.cfg := by
  rw [State.raiseLoss_frame]

/-- A fold of runs over channels that are served. -/
theorem Moves.foldl (f : State → Nat → State) (hf : ∀ s d, d ≤ s.cfg.nch → Moves s (f s d)) (l : List Nat) (s : State)
    (hl : ∀ d ∈ l, d ≤ s.cfg.nch) : Moves s (l.foldl f s) := by
  induction l generalizing s with
  | nil => exact .refl
  | cons d l ih =>
    have h := hf s d (hl d (by simp))
    refine .trans h (ih _ ?_)
    rw [h.fixed.2.2.1]
    exact fun e he => hl e (by simp [he])

theorem State.closeLoss_moves (s : State) (d : Nat) (r : Reason) (hd : d ≤ s.cfg.nch) :
    Moves s ((s.raiseLoss d r).toClosed d) :=
  .tail (s.raiseLoss_moves d r hd) (State.toClosed_move _ d (by rw [State.raiseLoss_cfg]; exact hd))

theorem State.cascade_moves (s : State) : Moves s s.cascade := by
  refine Moves.foldl _ ?_ _ s (fun d hd => ((s.mem_logicalChannels d).mp hd).2)
  intro s d hd
  unfold State.cascadeOne
  split
  · exact .refl
  · exact s.closeLoss_moves d _ hd

theorem State.closeWith_moves (s : State) (d : Nat) (k : EventKind) (a : Byte) (hd : d ≤ s.cfg.nch) :
    Moves s (s.closeWith d k a) := by
  have h : Moves s ((s.toClosed d).event k d a []) :=
    .tail (.single (s.toClosed_move d hd)) (.event k d a [] hd (fun _ => rfl))
  unfold State.closeWith
  split
  · exact h.trans (State.cascade_moves _)
  · exact h

theorem State.timerExpired_moves (s : State) (d : Nat) (hd : d ≤ s.cfg.nch) : Moves s (s.timerExpired d) := by
  unfold State.timerExpired
  split
  · exact .refl
  · split
    · split
      · exact .tail (.single (s.sendSabm_move d)) (State.setChan_move _ d _ hd (by exact Nat.le_refl _))
      · exact s.closeWith_moves d _ _ hd
    · split
      · exact .tail (.single (s.sendDisc_move d)) (State.setChan_move _ d _ hd (by exact Nat.le_refl _))
      · exact s.closeWith_moves d _ _ hd
    · exact .refl
    · exact .refl

theorem State.tearChannel_moves (s : State) (d : Nat) (hd : d ≤ s.cfg.nch) : Moves s (s.tearChannel d) := by
  have hsent : Moves s (if (s.chan d).state = .opened then s.sendDisc d else s) := by
    split
    · exact .single (s.sendDisc_move d)
    · exact .refl
  have hcfg := hsent.fixed.2.2.1
  have hlost := State.closeLoss_moves _ d .teardown (by rw [hcfg]; exact hd)
  refine .tail (hsent.trans hlost) (State.setChan_move _ d _ ?_ (Nat.zero_le _))
  rw [hlost.fixed.2.2.1, hcfg]; exact hd

theorem State.sendPieces_moves (s : State) (d : Nat) (data : List Byte) : Moves s (s.sendPieces d data) := by
  have h : ∀ (ps : List (List Byte)) (s : State), (∀ p ∈ ps, p.length ≤ s.cfg.maxLen) →
      Moves s (ps.foldl (fun t p => t.sendUih d p) s) := by
    intro ps
    induction ps with
    | nil => exact fun _ _ => .refl
    | cons p ps ih =>
      intro s hp
      exact .trans (.single (s.sendUih_move d p (hp p (by simp)))) (ih _ (fun q hq => hp q (by simp [hq])))
  exact h _ s (pieces_length_le _ _ _)

/-! ### Received frames as moves -/

theorem State.rxSabmRule_moves (s : State) (d : Nat) (pf : Bool) (hd : d ≤ s.cfg.nch) : Moves s (s.rxSabmRule d pf) := by
  unfold State.rxSabmRule
  split
  · split
    · refine .tail (.tail (.tail (.single (.role _)) (State.sendUa_move _ d pf)) (State.setChan_move _ d _ hd ?_))
        (.event _ d _ [] hd (fun _ => rfl))
      exact Nat.zero_le _
    · exact .single (s.sendDm_move d pf)
  · exact .tail (.tail (.single (s.sendUa_move d pf)) (State.setChan_move _ d _ hd (by exact Nat.le_refl _)))
      (.event _ d _ [] hd (fun _ => rfl))
  · exact .single (s.sendUa_move d pf)
  · exact .single (s.sendDm_move d pf)

theorem State.rxUaRule_moves (s : State) (d : Nat) (hd : d ≤ s.cfg.nch) : Moves s (s.rxUaRule d) := by
  unfold State.rxUaRule
  split
  · exact .refl
  · exact .tail (.single (State.setChan_move _ d _ hd (by exact Nat.le_refl _))) (.event _ d _ [] hd (fun _ => rfl))
  · exact .refl
  · exact s.closeWith_moves d _ _ hd

theorem State.rxDmRule_moves (s : State) (d : Nat) (hd : d ≤ s.cfg.nch) : Moves s (s.rxDmRule d) := by
  unfold State.rxDmRule
  split
  · exact .refl
  all_goals exact s.closeWith_moves d _ _ hd

theorem State.rxDiscRule_moves (s : State) (d : Nat) (pf : Bool) (hd : d ≤ s.cfg.nch) : Moves s (s.rxDiscRule d pf) := by
  unfold State.rxDiscRule
  split
  · exact .single (s.sendDm_move d pf)
  all_goals exact .trans (.single (s.sendUa_move d pf)) (State.closeWith_moves _ d _ _ hd)

theorem State.rxDataRule_moves (s : State) (d : Nat) (p : List Byte) (hd : d ≤ s.cfg.nch) : Moves s (s.rxDataRule d p) := by
  unfold State.rxDataRule
  split
  · exact .single .dropped
  · split
    · unfold State.rxCtrlRule
      split
      · exact .single (.event _ 0 _ _ (Nat.zero_le _) (fun h => absurd rfl h))
      · exact .single .badMessage
    · split
      · exact .refl
      · split
        · exact .tail (.single (State.setChan_move _ d _ hd (by exact Nat.le_refl _))) (.event _ d _ [] hd (fun _ => rfl))
        · next ho =>
          refine .tail (.single (.chan d _ hd (.inr ?_))) (.event _ d _ [] hd (fun _ => rfl))
          rw [State.overflows_eq] at ho
          simpa using ho

/-- What a received frame is, before its own rule (42_decoder.md R130, R148, R149, R152). -/
theorem State.receiveFrame_cases (s : State) (d : Dlci) (carries : Bool) (p : List Byte) (rule : State → State) :
    (s.link ≠ .up ∧ s.receiveFrame d carries p rule = s) ∨
    (s.link = .up ∧ s.cfg.nch < d.toNat ∧ s.receiveFrame d carries p rule = s.frameError .badDlci) ∨
    (s.link = .up ∧ d.toNat ≤ s.cfg.nch ∧ carries = false ∧ p ≠ [] ∧
      s.receiveFrame d carries p rule = s.frameError .payload) ∨
    (s.link = .up ∧ d.toNat ≤ s.cfg.nch ∧ (carries = false → p = []) ∧
      s.receiveFrame d carries p rule = rule s.goodFrame) := by
  unfold State.receiveFrame
  split
  · next h => exact .inl ⟨h, rfl⟩
  · next h =>
    have hup : s.link = .up := by simpa using h
    split
    · next hs =>
      rw [← Bool.not_eq_true, State.servesChannel_iff] at hs
      exact .inr (.inl ⟨hup, by omega, rfl⟩)
    · next hs =>
      rw [Bool.not_eq_false, State.servesChannel_iff] at hs
      split
      · next hp => exact .inr (.inr (.inl ⟨hup, hs, hp.1, hp.2, rfl⟩))
      · next hp => exact .inr (.inr (.inr ⟨hup, hs, by tauto, rfl⟩))

theorem State.receiveFrame_moves (s : State) (d : Dlci) (carries : Bool) (p : List Byte) (rule : State → State)
    (h : ∀ t : State, d.toNat ≤ t.cfg.nch → Moves t (rule t)) : Moves s (s.receiveFrame d carries p rule) := by
  rcases s.receiveFrame_cases d carries p rule with ⟨_, h1⟩ | ⟨_, _, h1⟩ | ⟨_, _, _, _, h1⟩ | ⟨_, hd, _, h1⟩ <;> rw [h1]
  · exact .single (.error _)
  · exact .single (.error _)
  · exact .trans (.single .good) (h _ (by rw [State.goodFrame_cfg]; exact hd))

/-- The seven rows of a received frame are runs of moves. -/
theorem execFrame_moves (d : Dlci) (cr pf : Bool) (c : Byte) (p : List Byte) (s t : State)
    (h : execRxSabm d cr pf p s = .next t ∨ execRxUa d cr pf p s = .next t ∨ execRxDm d cr pf p s = .next t ∨
      execRxDisc d cr pf p s = .next t ∨ execRxUih d cr pf p s = .next t ∨ execRxUi d cr pf p s = .next t ∨
      execRxReserved d cr c p s = .next t) : Moves s t := by
  rcases h with h | h | h | h | h | h | h <;> cases h
  · exact .tail (s.receiveFrame_moves d _ _ _ (fun t ht => t.rxSabmRule_moves _ pf ht)) (.reply _)
  · exact .tail (s.receiveFrame_moves d _ _ _ (fun t ht => t.rxUaRule_moves _ ht)) (.reply _)
  · exact .tail (s.receiveFrame_moves d _ _ _ (fun t ht => t.rxDmRule_moves _ ht)) (.reply _)
  · exact .tail (s.receiveFrame_moves d _ _ _ (fun t ht => t.rxDiscRule_moves _ pf ht)) (.reply _)
  · exact .tail (s.receiveFrame_moves d _ _ _ (fun t ht => t.rxDataRule_moves _ p ht)) (.reply _)
  · exact .tail (s.receiveFrame_moves d _ _ _ (fun t ht => t.rxDataRule_moves _ p ht)) (.reply _)
  · refine .tail ?_ (.reply _)
    split
    · exact .refl
    · exact .single (.error _)

/-! ### Received bytes as moves -/

/-- A completed frame runs the row its control byte selects (42_decoder.md R152). -/
theorem State.dispatchFrame_eq (s : State) (a c : Byte) (p : List Byte) :
    s.dispatchFrame a c p = exec (decodeFrame a c p) s := by
  unfold State.dispatchFrame decodeFrame
  cases frameTypeOf c <;> rfl

theorem State.dispatchFrame_moves (s t : State) (a c : Byte) (p : List Byte) (h : s.dispatchFrame a c p = .next t) :
    Moves s t := by
  apply execFrame_moves (addressDlci a) (commandResponse a) (pollFinal c) c p
  unfold State.dispatchFrame at h
  cases hf : frameTypeOf c <;> rw [hf] at h <;> simp only at h <;> simp only [h, true_or, or_true]

theorem State.validate_moves (s t : State) (hdr p : List Byte) (f : Byte) (h : s.validate hdr p f = .next t) :
    Moves s t := by
  unfold State.validate at h
  split at h
  · cases h; exact .single (.error _)
  · split at h
    · cases h; exact .single (.error _)
    · exact State.dispatchFrame_moves _ _ _ _ _ h

theorem State.lengthTaken_moves (s : State) : Moves s s.lengthTaken := by
  unfold State.lengthTaken
  split
  · exact .tail (.single (.error _)) (.decoder _)
  · split <;> exact .single (.decoder _)

theorem State.appendBody_moves (s : State) (b : Byte) : Moves s (s.appendBody b) := by
  unfold State.appendBody
  split
  · exact .tail (.single (.error _)) (.decoder _)
  · exact .single (.decoder _)

theorem State.basicStep_moves (s t : State) (b : Byte) (h : s.basicStep b = .next t) : Moves s t := by
  unfold State.basicStep at h
  split at h
  · cases h; split
    · exact .single (.decoder _)
    · exact .single .hunted
  · cases h; split
    · exact .refl
    · exact .single (.decoder _)
  · cases h; exact .single (.decoder _)
  · cases h
    unfold State.takeLen1
    simp only
    split
    · exact .trans (.tail (.single (.decoder _)) (.decoder _)) (State.lengthTaken_moves _)
    · exact .tail (.single (.decoder _)) (.decoder _)
  · cases h
    unfold State.takeLen2
    exact .trans (.single (.decoder _)) (State.lengthTaken_moves _)
  · cases h
    unfold State.takeData
    simp only
    split
    · exact .tail (.single (.decoder _)) (.decoder _)
    · exact .single (.decoder _)
  · cases h; exact .single (.decoder _)
  · split at h
    · exact .trans (.single (.decoder _)) (State.validate_moves _ _ _ _ _ h)
    · cases h; exact .tail (.single (.error _)) (.decoder _)
  · cases h
  · cases h

theorem State.parseAdvanced_moves (s t : State) (body : List Byte) (h : s.parseAdvanced body = .next t) : Moves s t := by
  unfold State.parseAdvanced at h
  split at h
  · unfold State.parseWithLength at h
    split at h
    · cases h; exact .single (.error _)
    · split at h
      · cases h; exact .single (.error _)
      · exact State.validate_moves _ _ _ _ _ h
  · unfold State.parseWithoutLength at h
    split at h
    · cases h; exact .single (.error _)
    · split at h
      · cases h; exact .single (.error _)
      · exact State.validate_moves _ _ _ _ _ h

theorem State.advancedStep_moves (s t : State) (b : Byte) (h : s.advancedStep b = .next t) : Moves s t := by
  unfold State.advancedStep at h
  split at h
  · cases h; split
    · exact .single (.decoder _)
    · exact .single .hunted
  · split at h
    · split at h
      · cases h; exact .refl
      · exact .trans (.single (.decoder _)) (State.parseAdvanced_moves _ _ _ h)
    · split at h
      · cases h; exact .single (.decoder _)
      · cases h; exact State.appendBody_moves _ _
  · split at h
    · cases h; exact .tail (.single (.error _)) (.decoder _)
    · cases h; exact State.appendBody_moves _ _
  all_goals cases h

theorem execRxByte_moves (b : Byte) (s t : State) (h : execRxByte b s = .next t) : Moves s t := by
  unfold execRxByte at h
  simp only at h
  split at h
  · cases h; exact .single (.reply _)
  · split at h
    · exact .trans (.single (.reply _)) (State.basicStep_moves _ _ _ h)
    · exact .trans (.single (.reply _)) (State.advancedStep_moves _ _ _ h)

/-! ### Commands as moves -/

/-- A check of a command that fails answers its status and nothing else. -/
theorem answer_moves (s : State) (st : Status) (v : ReturnValue) : Moves s (s.answer st v) := .single (.reply _)

theorem execStart_moves (d : Dlci) (n : Arg) (x : List Byte) (s t : State) (h : execStart d n x s = .next t) :
    Moves s t := by
  unfold execStart at h
  split at h
  · cases h; exact answer_moves _ _ _
  split at h
  · cases h; exact answer_moves _ _ _
  split at h
  · cases h; exact answer_moves _ _ _
  cases h
  exact .tail (.tail (.tail (.single (.role _)) (State.setChan_move _ 0 _ (Nat.zero_le _) (by exact Nat.le_refl _)))
    (State.sendSabm_move _ 0)) (.reply _)

theorem execOpen_moves (d : Dlci) (n : Arg) (x : List Byte) (s t : State) (h : execOpen d n x s = .next t) :
    Moves s t := by
  unfold execOpen at h
  split at h
  · cases h; exact answer_moves _ _ _
  split at h
  · cases h; exact answer_moves _ _ _
  split at h
  · cases h; exact answer_moves _ _ _
  split at h
  · cases h; exact answer_moves _ _ _
  · next e he =>
    cases h
    have hle := ((s.lowestClosed_some e).mp he).2.1
    exact .tail (.tail (.single (State.setChan_move _ e _ hle (Nat.zero_le _))) (State.sendSabm_move _ e)) (.reply _)

theorem execClose_moves (d : Dlci) (n : Arg) (x : List Byte) (s t : State) (h : execClose d n x s = .next t) :
    Moves s t := by
  unfold execClose at h
  split at h
  · cases h; exact answer_moves _ _ _
  split at h
  · cases h; exact answer_moves _ _ _
  split at h
  · cases h; exact answer_moves _ _ _
  next hs =>
  rw [Bool.not_eq_false, State.servesChannel_iff] at hs
  split at h
  · cases h; exact answer_moves _ _ _
  split at h
  · cases h; exact answer_moves _ _ _
  split at h
  · cases h; exact answer_moves _ _ _
  cases h
  exact .tail (.tail (.single (State.setChan_move _ _ _ hs (by exact Nat.le_refl _))) (State.sendDisc_move _ _)) (.reply _)

theorem execTimeout_moves (d : Dlci) (n : Arg) (x : List Byte) (s t : State) (h : execTimeout d n x s = .next t) :
    Moves s t := by
  unfold execTimeout at h
  split at h
  · cases h; exact answer_moves _ _ _
  split at h
  · cases h; exact answer_moves _ _ _
  next hs =>
  rw [Bool.not_eq_false, State.servesChannel_iff] at hs
  cases h
  exact .tail (s.timerExpired_moves _ hs) (.reply _)

theorem execLinkdown_moves (d : Dlci) (n : Arg) (x : List Byte) (s t : State) (h : execLinkdown d n x s = .next t) :
    Moves s t := by
  unfold execLinkdown at h
  split at h
  · cases h; exact answer_moves _ _ _
  split at h
  · cases h; exact answer_moves _ _ _
  cases h
  refine .tail (.tail (.trans (.single (.linkLost .down (by decide))) (Moves.foldl _ ?_ _ _ ?_)) (.decoder _)) (.reply _)
  · exact fun s d hd => s.closeLoss_moves d _ hd
  · exact fun d hd => (s.mem_controlChannelLast d).mp hd

theorem execTeardown_moves (d : Dlci) (n : Arg) (x : List Byte) (s t : State) (h : execTeardown d n x s = .next t) :
    Moves s t := by
  unfold execTeardown at h
  split at h
  · cases h; exact answer_moves _ _ _
  split at h
  · cases h; exact answer_moves _ _ _
  cases h
  refine .tail (.tail (.tail (Moves.foldl _ State.tearChannel_moves _ _ ?_) (.linkLost .dead (by decide)))
    (.decoder _)) (.reply _)
  exact fun d hd => (s.mem_controlChannelLast d).mp hd

theorem execWrite_moves (d : Dlci) (n : Arg) (x : List Byte) (s t : State) (h : execWrite d n x s = .next t) :
    Moves s t := by
  unfold execWrite at h
  split at h
  · cases h; exact answer_moves _ _ _
  split at h
  · cases h; exact answer_moves _ _ _
  split at h
  · cases h; exact answer_moves _ _ _
  split at h
  · cases h; exact answer_moves _ _ _
  cases h
  exact .tail (s.sendPieces_moves _ _) (.reply _)

theorem execRead_moves (d : Dlci) (n : Arg) (x : List Byte) (s t : State) (h : execRead d n x s = .next t) :
    Moves s t := by
  unfold execRead at h
  split at h
  · cases h; exact answer_moves _ _ _
  split at h
  · cases h; exact answer_moves _ _ _
  next hs =>
  rw [Bool.not_eq_false, State.isLogicalChannel_iff] at hs
  cases h
  refine .tail (.single (State.setChan_move _ _ _ hs.2 ?_)) (.reply _)
  simp

theorem execTxctrl_moves (d : Dlci) (n : Arg) (x : List Byte) (s t : State) (h : execTxctrl d n x s = .next t) :
    Moves s t := by
  unfold execTxctrl at h
  split at h
  · cases h; exact answer_moves _ _ _
  split at h
  · cases h; exact answer_moves _ _ _
  next hl =>
  split at h
  · cases h; exact answer_moves _ _ _
  split at h
  · cases h; exact answer_moves _ _ _
  split at h
  · cases h; exact answer_moves _ _ _
  next hf =>
  cases h
  rw [Bool.not_eq_false, controlMessageLegal_iff] at hl
  obtain ⟨ty, v, rfl, _⟩ := hl
  rw [Bool.not_eq_false, State.controlMessageFits_iff] at hf
  refine .tail (.single (State.sendUih_move _ _ _ ?_)) (.reply _)
  simp only [controlMessage, List.take_succ_cons, List.take_zero, List.drop_succ_cons, List.drop_zero,
    List.length_append, List.length_singleton]
  omega

/-- Every operation but EVPOP, CLRSTAT and RESET is a run of moves. -/
theorem exec_moves (i : Instr) (s t : State) (h : exec i s = .next t) (h1 : i ≠ .evPop)
    (h2 : ∀ d n data, i ≠ .clrstat d n data) (h3 : i ≠ .reset) : Moves s t := by
  cases i with
  | nop d n x =>
    simp only [exec, execNop] at h
    split at h <;> cases h <;> exact answer_moves _ _ _
  | start d n x => exact execStart_moves d n x s t h
  | openCh d n x => exact execOpen_moves d n x s t h
  | closeCh d n x => exact execClose_moves d n x s t h
  | write d n x => exact execWrite_moves d n x s t h
  | read d n x => exact execRead_moves d n x s t h
  | txctrl d n x => exact execTxctrl_moves d n x s t h
  | teardown d n x => exact execTeardown_moves d n x s t h
  | timeout d n x => exact execTimeout_moves d n x s t h
  | linkdown d n x => exact execLinkdown_moves d n x s t h
  | clrstat d n x => exact absurd rfl (h2 d n x)
  | reservedB d n x => cases h; exact answer_moves _ _ _
  | reservedC d n x => cases h; exact answer_moves _ _ _
  | reservedD d n x => cases h; exact answer_moves _ _ _
  | reservedE d n x => cases h; exact answer_moves _ _ _
  | reservedF d n x => cases h; exact answer_moves _ _ _
  | rxByte b => exact execRxByte_moves b s t h
  | regRead a => cases h; exact .single (.reply _)
  | evPop => exact absurd rfl h1
  | reset => exact absurd rfl h3
  | rxSabm d cr pf p => exact execFrame_moves d cr pf 0 p s t (.inl h)
  | rxUa d cr pf p => exact execFrame_moves d cr pf 0 p s t (.inr (.inl h))
  | rxDm d cr pf p => exact execFrame_moves d cr pf 0 p s t (.inr (.inr (.inl h)))
  | rxDisc d cr pf p => exact execFrame_moves d cr pf 0 p s t (.inr (.inr (.inr (.inl h))))
  | rxUih d cr pf p => exact execFrame_moves d cr pf 0 p s t (.inr (.inr (.inr (.inr (.inl h)))))
  | rxUi d cr pf p => exact execFrame_moves d cr pf 0 p s t (.inr (.inr (.inr (.inr (.inr (.inl h))))))
  | rxReserved d cr c p => exact execFrame_moves d cr false c p s t (.inr (.inr (.inr (.inr (.inr (.inr h))))))

end Sys2Proof.Machine
end

