-- ==== Sys2Proof/Laws/Step.lean ====
section
/-! SUPPORT. What one step can do: nothing, a change of the configuration inputs or of the list of inputs, or one operation. -/

namespace Sys2Proof.Machine

/-- A step that answers a next state ran one operation on the state without its input, or took an event of the environment
that changes the configuration inputs and the list of inputs at most (20_memory.md R52, 70_reset_and_hazards.md R272). -/
theorem step_cases (s t : State) (h : step s = .next t) :
    (s.pending = [] ∧ t = s) ∨
    (∃ e rest bits i, s.pending = e :: rest ∧ e.encoded = some bits ∧ decode bits = .ok i ∧
      exec i { s with pending := rest } = .next t) ∨
    (∃ p rest, s.pending = .setPins p :: rest ∧ t = { s with pins := p, pending := rest }) ∨
    (∃ b rest, s.pending = .foreignWrite b :: rest ∧ s.writing = false ∧ t = { s with pending := rest }) := by
  unfold step State.fetch at h
  cases hp : s.pending with
  | nil => rw [hp] at h; cases h; exact .inl ⟨rfl, rfl⟩
  | cons e rest =>
    rw [hp] at h
    simp only at h
    cases he : e.encoded with
    | none =>
      rw [he] at h
      simp only at h
      cases e <;> simp only [environmentEvent] at h
      case setPins p => cases h; exact .inr (.inr (.inl ⟨p, rest, rfl, rfl⟩))
      case foreignWrite b =>
        split at h
        · cases h
        · next hw => cases h; exact .inr (.inr (.inr ⟨b, rest, rfl, by simpa using hw, rfl⟩))
      all_goals cases h
    | some bits =>
      rw [he] at h
      simp only at h
      cases hd : decode bits with
      | error r => rw [hd] at h; cases h
      | ok i => rw [hd] at h; exact .inr (.inl ⟨e, rest, bits, i, rfl, he, hd, h⟩)

/-- A property of states that does not read the list of inputs nor the configuration inputs, and that every operation keeps,
is kept by every step. -/
theorem step_keeps (P : State → Prop) (hp : ∀ (s : State) (pins : Cfg) (rest : List Input), P s →
    P { s with pins := pins, pending := rest }) (h : ∀ i s t, P s → exec i s = .next t → P t) (s t : State) (hs : P s)
    (hstep : step s = .next t) : P t := by
  rcases step_cases s t hstep with ⟨_, rfl⟩ | ⟨_, rest, _, i, _, _, _, hx⟩ | ⟨p, rest, _, rfl⟩ | ⟨_, rest, _, _, rfl⟩
  · exact hs
  · exact h i _ t (hp s s.pins rest hs) hx
  · exact hp s p rest hs
  · exact hp s s.pins rest hs

end Sys2Proof.Machine
end

