-- ==== Sys2Proof/Laws/Fields.lean ====
section
/-! SUPPORT. Which shared operations leave the decoder, LINK and ROLE alone. -/

namespace Sys2Proof.Machine

@[simp] theorem State.closeWith_dec (s : State) (d : Nat) (k : EventKind) (a : Byte) : (s.closeWith d k a).dec = s.dec := by
  rw [s.closeWith_frame]

@[simp] theorem State.closeWith_link (s : State) (d : Nat) (k : EventKind) (a : Byte) :
    (s.closeWith d k a).link = s.link := by rw [s.closeWith_frame]

@[simp] theorem State.closeWith_role (s : State) (d : Nat) (k : EventKind) (a : Byte) :
    (s.closeWith d k a).role = s.role := by rw [s.closeWith_frame]

@[simp] theorem State.closeWith_cfg (s : State) (d : Nat) (k : EventKind) (a : Byte) : (s.closeWith d k a).cfg = s.cfg := by
  rw [s.closeWith_frame]

@[simp] theorem State.closeWith_tx (s : State) (d : Nat) (k : EventKind) (a : Byte) : (s.closeWith d k a).tx = s.tx := by
  rw [s.closeWith_frame]

/-- Closing keeps the table's length. -/
@[simp] theorem State.closeWith_length (s : State) (d : Nat) (k : EventKind) (a : Byte) :
    (s.closeWith d k a).ch.length = s.ch.length := by
  have one : ∀ (u : State) (e : Nat), (u.cascadeOne e).ch.length = u.ch.length := by
    intro u e; unfold State.cascadeOne; split <;> simp
  have all : ∀ (l : List Nat) (u : State), (l.foldl State.cascadeOne u).ch.length = u.ch.length := by
    intro l
    induction l with
    | nil => exact fun _ => rfl
    | cons e l ih => exact fun u => (ih _).trans (one u e)
  unfold State.closeWith
  split
  · exact (all _ _).trans (by simp)
  · simp

/-- An expired timer leaves the decoder, LINK and ROLE (43_mux_control.md R174). -/
theorem State.timerExpired_kept (s : State) (d : Nat) :
    (s.timerExpired d).dec = s.dec ∧ (s.timerExpired d).link = s.link ∧ (s.timerExpired d).role = s.role := by
  unfold State.timerExpired
  split
  · simp
  · split <;> (try split) <;> simp [State.sendSabm, State.sendDisc, State.countAttempt]

/-- WRITE's frames leave the decoder, LINK, ROLE and the channels (44_data_path.md R210). -/
theorem State.sendPieces_kept (s : State) (d : Nat) (x : List Byte) :
    (s.sendPieces d x).dec = s.dec ∧ (s.sendPieces d x).link = s.link ∧ (s.sendPieces d x).role = s.role ∧
      (s.sendPieces d x).ch = s.ch := by
  unfold State.sendPieces; rw [foldl_sendUih]; simp

/-- The rules of received frames leave the decoder and LINK (43_mux_control.md R180 to R187, 44_data_path.md R217). -/
theorem State.rxRules_kept (s : State) (d : Nat) (pf : Bool) (p : List Byte) :
    ((s.rxSabmRule d pf).dec = s.dec ∧ (s.rxSabmRule d pf).link = s.link) ∧
    ((s.rxUaRule d).dec = s.dec ∧ (s.rxUaRule d).link = s.link ∧ (s.rxUaRule d).role = s.role) ∧
    ((s.rxDmRule d).dec = s.dec ∧ (s.rxDmRule d).link = s.link ∧ (s.rxDmRule d).role = s.role) ∧
    ((s.rxDiscRule d pf).dec = s.dec ∧ (s.rxDiscRule d pf).link = s.link ∧ (s.rxDiscRule d pf).role = s.role) ∧
    ((s.rxDataRule d p).dec = s.dec ∧ (s.rxDataRule d p).link = s.link ∧ (s.rxDataRule d p).role = s.role) := by
  refine ⟨?_, ?_, ?_, ?_, ?_⟩
  · unfold State.rxSabmRule; split <;> (try split) <;> simp [State.sendUa, State.sendDm]
  · unfold State.rxUaRule; split <;> simp
  · unfold State.rxDmRule; split <;> simp
  · unfold State.rxDiscRule; split <;> simp [State.sendUa, State.sendDm]
  · unfold State.rxDataRule State.rxCtrlRule State.overflow State.dropData
    repeat' split
    all_goals simp

/-- ROLE changes under a SABM only where CH[0] is opened remotely (43_mux_control.md R180, R188). -/
theorem State.rxSabmRule_role (s : State) (d : Nat) (pf : Bool) :
    (s.rxSabmRule d pf).role = s.role ∨
      (d = 0 ∧ s.cfg.server = true ∧ (s.chan d).state = .closed ∧ (s.rxSabmRule d pf).role = .responder) := by
  unfold State.rxSabmRule
  split
  · next hc =>
    split
    · next ha =>
      by_cases hd : d = 0
      · have hs : s.cfg.server = true := by
          unfold State.remoteOpenAccepted at ha
          rw [Bool.and_eq_true] at ha
          exact ha.1
        subst hd
        exact .inr ⟨rfl, hs, hc, rfl⟩
      · left; simp [State.sendUa, hd]
    · left; simp [State.sendDm]
  all_goals left; simp [State.sendUa, State.sendDm]

/-- A field that frame errors, good frames and the rule leave alone is left alone by a received frame. -/
theorem State.receiveFrame_kept {α : Type} (f : State → α) (s : State) (d : Dlci) (carries : Bool) (p : List Byte)
    (rule : State → State) (he : ∀ t k, f (State.frameError t k) = f t) (hg : ∀ t, f (State.goodFrame t) = f t)
    (hr : ∀ t, f (rule t) = f t) : f (s.receiveFrame d carries p rule) = f s := by
  rcases s.receiveFrame_cases d carries p rule with ⟨_, h1⟩ | ⟨_, _, h1⟩ | ⟨_, _, _, _, h1⟩ | ⟨_, _, _, h1⟩ <;> rw [h1]
  · exact he _ _
  · exact he _ _
  · rw [hr, hg]

/-- The seven rows of a received frame leave the decoder and LINK. -/
theorem execFrame_kept (d : Dlci) (cr pf : Bool) (c : Byte) (p : List Byte) (s t : State)
    (h : execRxSabm d cr pf p s = .next t ∨ execRxUa d cr pf p s = .next t ∨ execRxDm d cr pf p s = .next t ∨
      execRxDisc d cr pf p s = .next t ∨ execRxUih d cr pf p s = .next t ∨ execRxUi d cr pf p s = .next t ∨
      execRxReserved d cr c p s = .next t) : t.dec = s.dec ∧ t.link = s.link := by
  have kept : ∀ (carries : Bool) (rule : State → State), (∀ u, (rule u).dec = u.dec ∧ (rule u).link = u.link) →
      (s.receiveFrame d carries p rule).dec = s.dec ∧ (s.receiveFrame d carries p rule).link = s.link := by
    intro carries rule hr
    exact ⟨s.receiveFrame_kept State.dec d _ p rule (by simp) (by simp) (fun u => (hr u).1),
      s.receiveFrame_kept State.link d _ p rule (by simp) (by simp) (fun u => (hr u).2)⟩
  have rules := fun u : State => u.rxRules_kept d.toNat pf p
  rcases h with h | h | h | h | h | h | h <;> cases h <;> simp only [State.withReply_dec, State.withReply_link]
  · exact kept _ _ (fun u => (rules u).1)
  · exact kept _ _ (fun u => ⟨(rules u).2.1.1, (rules u).2.1.2.1⟩)
  · exact kept _ _ (fun u => ⟨(rules u).2.2.1.1, (rules u).2.2.1.2.1⟩)
  · exact kept _ _ (fun u => ⟨(rules u).2.2.2.1.1, (rules u).2.2.2.1.2.1⟩)
  · exact kept _ _ (fun u => ⟨(rules u).2.2.2.2.1, (rules u).2.2.2.2.2.1⟩)
  · exact kept _ _ (fun u => ⟨(rules u).2.2.2.2.1, (rules u).2.2.2.2.2.1⟩)
  · split <;> simp

/-- A frame that passes every check runs its rule on the state after GoodFrame (42_decoder.md R152). -/
theorem State.receiveFrame_good (s : State) (d : Dlci) (carries : Bool) (p : List Byte) (rule : State → State)
    (hl : s.link = .up) (hd : d.toNat ≤ s.cfg.nch) (hp : carries = false → p = []) :
    s.receiveFrame d carries p rule = rule s.goodFrame := by
  rcases s.receiveFrame_cases d carries p rule with ⟨h, _⟩ | ⟨_, h, _⟩ | ⟨_, _, h1, h2, _⟩ | ⟨_, _, _, h⟩
  · exact absurd hl h
  · omega
  · exact absurd (hp h1) h2
  · exact h

/-- Closing a channel does not read the answer. -/
theorem State.closeWith_withReply (s : State) (d : Nat) (k : EventKind) (a : Byte) (r : Reply) :
    (s.closeWith d k a).withReply r = (s.withReply r).closeWith d k a := by
  have one : ∀ (u : State) (e : Nat), (u.cascadeOne e).withReply r = (u.withReply r).cascadeOne e := by
    intro u e
    unfold State.cascadeOne State.raiseLoss
    simp only [State.chan_withReply]
    by_cases h : (u.chan e).state = .closed
    · simp only [h, ↓reduceIte]
    · simp only [h, ↓reduceIte]
      cases lossEvent (u.chan e).state <;> rfl
  have all : ∀ (l : List Nat) (u : State),
      (l.foldl State.cascadeOne u).withReply r = l.foldl State.cascadeOne (u.withReply r) := by
    intro l
    induction l with
    | nil => exact fun _ => rfl
    | cons e l ih => intro u; rw [List.foldl_cons, List.foldl_cons, ih, one]
  unfold State.closeWith
  simp only
  split
  · exact all _ _
  · rfl

end Sys2Proof.Machine
end

