-- ==== Sys2Proof/Laws/Bytes.lean ====
section
/-! SUPPORT. The receive decoder, one byte at a time: which step a byte runs, and the order in which frame errors and the decoder's registers are updated does not matter. -/

namespace Sys2Proof.Machine

/-- A byte is ignored while LINK is not UP (42_decoder.md R130). -/
theorem execRxByte_ignored (b : Byte) (s : State) (h : s.link ≠ .up) : execRxByte b s = .next (s.withReply .nothing) := by
  simp only [execRxByte, h, ne_eq, not_false_eq_true, ↓reduceIte]

/-- A byte of basic mode (42_decoder.md R131 to R138). -/
theorem execRxByte_basic (b : Byte) (s : State) (h : s.link = .up) (hm : s.cfg.mode = .basic) :
    execRxByte b s = (s.withReply .nothing).basicStep b := by
  simp only [execRxByte, h, hm, ne_eq, not_true_eq_false, ↓reduceIte]

/-- A byte of advanced mode (42_decoder.md R139 to R144). -/
theorem execRxByte_advanced (b : Byte) (s : State) (h : s.link = .up) (hm : s.cfg.mode = .advanced) :
    execRxByte b s = (s.withReply .nothing).advancedStep b := by
  simp only [execRxByte, h, hm, ne_eq, not_true_eq_false, ↓reduceIte]

/-- A frame error does not read the decoder. -/
theorem State.frameError_decoder (s : State) (dec : Decoder) (k : FrameErrorKind) :
    ({ s with dec := dec } : State).frameError k = { s.frameError k with dec := dec } := by
  have e : ({ s with dec := dec } : State).desyncRises (satInc s.consecErr) = s.desyncRises (satInc s.consecErr) := rfl
  simp only [State.frameError, e]
  cases s.desyncRises (satInc s.consecErr) <;> rfl

/-- A frame error does not read the answer. -/
theorem State.frameError_withReply (s : State) (r : Reply) (k : FrameErrorKind) :
    (s.withReply r).frameError k = (s.frameError k).withReply r := by
  have e : (s.withReply r).desyncRises (satInc (s.withReply r).consecErr) = s.desyncRises (satInc s.consecErr) := rfl
  simp only [State.frameError, e]
  cases s.desyncRises (satInc s.consecErr) <;> rfl

/-- GoodFrame does not read the decoder. -/
theorem State.goodFrame_decoder (s : State) (dec : Decoder) :
    ({ s with dec := dec } : State).goodFrame = { s.goodFrame with dec := dec } := by
  simp only [State.goodFrame]
  cases s.desync <;> rfl

/-- GoodFrame does not read the answer. -/
theorem State.goodFrame_withReply (s : State) (r : Reply) : (s.withReply r).goodFrame = s.goodFrame.withReply r := by
  have e : (s.withReply r).desync = s.desync := rfl
  simp only [State.goodFrame, e]
  cases s.desync <;> rfl

/-- The header bytes and the fields they are read from (42_decoder.md R145, R146, R152). -/
theorem State.validate_eq (s : State) (a c : Byte) (tail p : List Byte) (f : Byte) :
    s.validate (a :: c :: tail) p f =
      if fcs (covered (a :: c :: tail) c p) ≠ f then .next (s.frameError .fcs)
      else if a.getLsbD 0 = false then .next (s.frameError .badAddr)
      else exec (decodeFrame a c p) s := by
  unfold State.validate extensionBit
  rw [← State.dispatchFrame_eq]
  rfl

/-- A body with the parts of a frame, without a length field (42_decoder.md R144). -/
theorem State.parseWithoutLength_eq (s : State) (a c f : Byte) (p : List Byte) (h : p.length ≤ s.cfg.maxLen) :
    s.parseWithoutLength (a :: c :: (p ++ [f])) = s.validate [a, c] p f := by
  have hlen : (a :: c :: (p ++ [f])).length = p.length + 3 := by simp
  have hlast : (a :: c :: (p ++ [f])).getD (p.length + 3 - 1) 0 = f := by simp
  have hmid : ((a :: c :: (p ++ [f])).drop 2).take (p.length + 3 - 3) = p := by simp
  unfold State.parseWithoutLength
  rw [hlen, if_neg (by omega), if_neg (by omega), hlast, hmid]
  rfl

/-- A body with a one-byte length field (42_decoder.md R143). -/
theorem State.parseWithLength_short (s : State) (a c l0 f : Byte) (p : List Byte) (he : l0.getLsbD 0 = true) :
    s.parseWithLength (a :: c :: l0 :: (p ++ [f])) =
      if s.cfg.maxLen < l0.toNat / 2 ∨ p.length ≠ l0.toNat / 2 then .next (s.frameError .length)
      else s.validate [a, c, l0] p f := by
  have hbody : bodyLength (a :: c :: l0 :: (p ++ [f])) = some (oneByteLength l0, 3) := by
    cases p <;> simp [bodyLength, extensionBit, -BitVec.getLsbD_eq_getElem, he]
  have hlen : (a :: c :: l0 :: (p ++ [f])).length = p.length + 4 := by simp
  unfold State.parseWithLength
  rw [hbody]
  simp only [oneByteLength_eq, hlen]
  by_cases h : s.cfg.maxLen < l0.toNat / 2 ∨ p.length ≠ l0.toNat / 2
  · rw [if_pos (by omega), if_pos h]
  · rw [if_neg (by omega), if_neg h]
    have hl : l0.toNat / 2 = p.length := by omega
    have hlast : (a :: c :: l0 :: (p ++ [f])).getD (p.length + 4 - 1) 0 = f := by simp
    have hmid : ((a :: c :: l0 :: (p ++ [f])).drop 3).take p.length = p := by simp
    rw [hlast, hl, hmid]
    rfl

/-- A body with a two-byte length field (42_decoder.md R143). -/
theorem State.parseWithLength_long (s : State) (a c l0 l1 f : Byte) (p : List Byte) (he : l0.getLsbD 0 = false) :
    s.parseWithLength (a :: c :: l0 :: l1 :: (p ++ [f])) =
      if s.cfg.maxLen < l0.toNat / 2 + 128 * l1.toNat ∨ p.length ≠ l0.toNat / 2 + 128 * l1.toNat
      then .next (s.frameError .length)
      else s.validate [a, c, l0, l1] p f := by
  have hbody : bodyLength (a :: c :: l0 :: l1 :: (p ++ [f])) = some (twoByteLength l0 l1, 4) := by
    simp [bodyLength, extensionBit, -BitVec.getLsbD_eq_getElem, he]
  have hlen : (a :: c :: l0 :: l1 :: (p ++ [f])).length = p.length + 5 := by simp
  unfold State.parseWithLength
  rw [hbody]
  simp only [twoByteLength_eq, hlen]
  generalize l0.toNat / 2 + 128 * l1.toNat = n
  by_cases h : s.cfg.maxLen < n ∨ p.length ≠ n
  · rw [if_pos (by omega), if_pos h]
  · rw [if_neg (by omega), if_neg h]
    have hl : n = p.length := by omega
    have hlast : (a :: c :: l0 :: l1 :: (p ++ [f])).getD (p.length + 5 - 1) 0 = f := by simp
    have hmid : ((a :: c :: l0 :: l1 :: (p ++ [f])).drop 4).take p.length = p := by simp
    rw [hlast, hl, hmid]
    rfl

/-- Too few bytes for a frame with a length field (42_decoder.md R143). -/
theorem State.parseWithLength_tooShort (s : State) (body : List Byte)
    (h : body.length < 4 ∨ (body.length = 4 ∧ (body.getD 2 0).getLsbD 0 = false)) :
    s.parseWithLength body = .next (s.frameError .short) := by
  have hb : bodyLength body = none := by
    unfold bodyLength extensionBit
    split
    · next l0 l1 rest =>
      rcases h with h | ⟨h1, h2⟩
      · simp at h; omega
      · have hr : rest = [] := by
          rw [← List.length_eq_zero_iff]; simp at h1; exact List.length_eq_zero_iff.mpr h1
        have hl : l0.getLsbD 0 = false := h2
        rw [hl, hr]
        rfl
    · rfl
  unfold State.parseWithLength
  rw [hb]

/-! ### What one received byte can do -/

/-- A frame that is complete is a frame error, or it runs the operation its bytes select (42_decoder.md R152). -/
theorem State.validate_cases (s : State) (hdr p : List Byte) (f : Byte) :
    (∃ k, s.validate hdr p f = .next (s.frameError k)) ∨
    s.validate hdr p f = exec (decodeFrame (hdr.getD 0 0) (hdr.getD 1 0) p) s := by
  unfold State.validate
  split
  · exact .inl ⟨_, rfl⟩
  · split
    · exact .inl ⟨_, rfl⟩
    · exact .inr (s.dispatchFrame_eq _ _ _)

/-- A body that ends is a frame error, or it runs the operation its bytes select (42_decoder.md R143, R144). -/
theorem State.parseAdvanced_cases (s : State) (body : List Byte) :
    (∃ k, s.parseAdvanced body = .next (s.frameError k)) ∨
    ∃ a c p, s.parseAdvanced body = exec (decodeFrame a c p) s := by
  have run : ∀ hdr p f, (∃ k, s.validate hdr p f = .next (s.frameError k)) ∨
      ∃ a c p', s.validate hdr p f = exec (decodeFrame a c p') s := fun hdr p f =>
    (s.validate_cases hdr p f).imp_right fun h => ⟨_, _, _, h⟩
  unfold State.parseAdvanced
  split
  · unfold State.parseWithLength
    split
    · exact .inl ⟨_, rfl⟩
    · split
      · exact .inl ⟨_, rfl⟩
      · exact run _ _ _
  · unfold State.parseWithoutLength
    split
    · exact .inl ⟨_, rfl⟩
    · split
      · exact .inl ⟨_, rfl⟩
      · exact run _ _ _

/-- `t` is `s` but for the decoder, the answer, which is none, and one more hunted byte at most. -/
abbrev State.onlyListens (s t : State) : Prop :=
  (t.desyncByteCnt = s.desyncByteCnt ∨ t.desyncByteCnt = satInc s.desyncByteCnt) ∧
  t = { s with dec := t.dec, desyncByteCnt := t.desyncByteCnt, reply := .nothing }

/-- `t` is `s` after one frame error, but for the decoder and the answer, which is none. -/
abbrev State.onlyErrs (s t : State) : Prop :=
  ∃ k, t = { s.frameError k with dec := t.dec, reply := .nothing }

/-- A frame error reads neither the decoder nor the answer. -/
theorem State.frameError_quiet (s : State) (dec : Decoder) (k : FrameErrorKind) :
    ({ s with dec := dec, reply := .nothing } : State).frameError k =
      { s.frameError k with dec := dec, reply := .nothing } :=
  (State.frameError_decoder (s.withReply .nothing) dec k).trans
    (congrArg (fun u : State => { u with dec := dec }) (State.frameError_withReply s .nothing k))

/-- A frame error after which the decoder moves. -/
theorem State.onlyErrs_moved (s : State) (before after : Decoder) (k : FrameErrorKind) :
    s.onlyErrs { ({ s with dec := before, reply := .nothing } : State).frameError k with dec := after } :=
  ⟨k, by rw [State.frameError_quiet]⟩

/-- A frame error that leaves the decoder where it is. -/
theorem State.onlyErrs_kept (s : State) (dec : Decoder) (k : FrameErrorKind) :
    s.onlyErrs (({ s with dec := dec, reply := .nothing } : State).frameError k) :=
  ⟨k, by rw [State.frameError_quiet]⟩

/-- Everything one received byte can do (42_decoder.md R130 to R144): it moves the decoder, counting a hunted byte; or it
is one frame error; or it is the flag that completes a frame and runs the operation that frame selects. -/
theorem execRxByte_cases (b : Byte) (s t : State) (h : execRxByte b s = .next t) :
    s.onlyListens t ∨ s.onlyErrs t ∨
    (b = flagByte s.cfg.mode ∧ (s.dec.dstate = .close ∨ s.dec.dstate = .body) ∧ ∃ a c p dec',
      execRxByte b s = exec (decodeFrame a c p) { s with dec := dec', reply := .nothing }) := by
  by_cases hup : s.link = .up
  swap
  · rw [execRxByte_ignored _ _ hup] at h
    cases h
    exact .inl ⟨.inl rfl, rfl⟩
  have taken : ∀ d : Decoder, ∀ u, (({ s with dec := d, reply := .nothing } : State).lengthTaken) = u →
      s.onlyListens u ∨ s.onlyErrs u := by
    rintro d u rfl
    unfold State.lengthTaken
    split
    · exact .inr (s.onlyErrs_moved d _ _)
    · split <;> exact .inl ⟨.inl rfl, rfl⟩
  have joined : ∀ x u, (({ s with reply := .nothing } : State).appendBody x) = u →
      s.onlyListens u ∨ s.onlyErrs u := by
    rintro x u rfl
    unfold State.appendBody
    split
    · exact .inr (s.onlyErrs_moved s.dec _ _)
    · exact .inl ⟨.inl rfl, rfl⟩
  cases hm : s.cfg.mode with
  | basic =>
    have e := execRxByte_basic b s hup hm
    rw [e] at h
    have hq : (s.withReply .nothing).dec = s.dec := rfl
    cases hd : s.dec.dstate <;> simp only [State.basicStep, hq, hd] at h e
    case hunt => cases h; left; split; exacts [⟨.inl rfl, rfl⟩, ⟨.inr rfl, rfl⟩]
    case addr => cases h; left; split <;> exact ⟨.inl rfl, rfl⟩
    case ctrl => cases h; exact .inl ⟨.inl rfl, rfl⟩
    case len1 =>
      cases h
      unfold State.takeLen1
      simp only
      split
      · exact (taken _ _ rfl).imp_right .inl
      · exact .inl ⟨.inl rfl, rfl⟩
    case len2 => cases h; exact (taken _ _ rfl).imp_right .inl
    case data => cases h; left; unfold State.takeData; simp only; split <;> exact ⟨.inl rfl, rfl⟩
    case fcs => cases h; exact .inl ⟨.inl rfl, rfl⟩
    case close =>
      by_cases hb : b = flagByte .basic
      · simp only [if_pos hb] at h e
        rcases State.validate_cases ((s.withReply .nothing).goto .addr) (basicHeader s.dec) s.dec.dpl s.dec.df
          with ⟨k, hk⟩ | hk
        · rw [hk] at h
          cases h
          exact .inr (.inl (s.onlyErrs_kept _ k))
        · exact .inr (.inr ⟨hb, .inl rfl, _, _, _, _, e.trans hk⟩)
      · rw [if_neg hb] at h
        cases h
        exact .inr (.inl (s.onlyErrs_moved s.dec _ _))
    case body => cases h
    case esc => cases h
  | advanced =>
    have e := execRxByte_advanced b s hup hm
    rw [e] at h
    have hq : (s.withReply .nothing).dec = s.dec := rfl
    cases hd : s.dec.dstate <;> simp only [State.advancedStep, hq, hd] at h e
    case hunt => cases h; left; split; exacts [⟨.inl rfl, rfl⟩, ⟨.inr rfl, rfl⟩]
    case body =>
      by_cases hb : b = flagByte .advanced
      · rw [if_pos hb] at h e
        by_cases hne : s.dec.dbody = []
        · rw [if_pos hne] at h
          cases h
          exact .inl ⟨.inl rfl, rfl⟩
        · rw [if_neg hne] at h e
          rcases State.parseAdvanced_cases
            { s.withReply .nothing with dec := { s.dec with dstate := .body, dbody := [] } } s.dec.dbody
            with ⟨k, hk⟩ | ⟨a, c, p, hk⟩
          · replace h := hk.symm.trans h
            cases h
            exact .inr (.inl (s.onlyErrs_kept _ k))
          · exact .inr (.inr ⟨hb, .inr rfl, a, c, p, _, e.trans hk⟩)
      · rw [if_neg hb] at h
        split at h
        · cases h; exact .inl ⟨.inl rfl, rfl⟩
        · cases h; exact (joined _ _ rfl).imp_right .inl
    case esc =>
      split at h
      · cases h; exact .inr (.inl (s.onlyErrs_moved s.dec _ _))
      · cases h; exact (joined _ _ rfl).imp_right .inl
    all_goals cases h

end Sys2Proof.Machine
end

