-- ==== Sys2Proof/Laws/PerInstr.lean ====
section
/-! SUPPORT. The family TableRow: the bits the encoder gives an instruction are those of its row of spec/opcode_table.json. -/

namespace Sys2Proof.Laws.TableRow

/-- A command word matches its row's `match` under its row's `mask` exactly where the fields the mask fixes to 0 are 0
(30_encoding.md R85, R86). -/
def commandRow (m k : CommandWord) (zero : Prop) (e : Encoded) : Prop :=
  ∃ (w : CommandWord) (data : List Byte), e = .command w data ∧ (w &&& k = m ↔ zero)

/-- A frame's control byte matches its row under the mask 0xEF, whatever its P/F bit (30_encoding.md R74). -/
def frameRow (m : Byte) (e : Encoded) : Prop :=
  ∃ (a c : Byte) (payload : List Byte), e = .frame a c payload ∧ c &&& 0xEF#8 = m

/-- The row of each instruction. The rows of the port operations have no fixed bit. A reserved control byte matches none of
the six types. -/
def Statement : Instr → Prop
  | .nop d n data => commandRow 0x0000#16 0xFFFF#16 (d = 0 ∧ n = 0) (encode (.nop d n data))
  | .start d n data => commandRow 0x1000#16 0xFFFF#16 (d = 0 ∧ n = 0) (encode (.start d n data))
  | .openCh d n data => commandRow 0x2000#16 0xFFFF#16 (d = 0 ∧ n = 0) (encode (.openCh d n data))
  | .closeCh d n data => commandRow 0x3000#16 0xF03F#16 (n = 0) (encode (.closeCh d n data))
  | .write d n data => commandRow 0x4000#16 0xF03F#16 (n = 0) (encode (.write d n data))
  | .read d n data => commandRow 0x5000#16 0xF000#16 True (encode (.read d n data))
  | .txctrl d n data => commandRow 0x6000#16 0xFFFF#16 (d = 0 ∧ n = 0) (encode (.txctrl d n data))
  | .teardown d n data => commandRow 0x7000#16 0xFFFF#16 (d = 0 ∧ n = 0) (encode (.teardown d n data))
  | .timeout d n data => commandRow 0x8000#16 0xF03F#16 (n = 0) (encode (.timeout d n data))
  | .linkdown d n data => commandRow 0x9000#16 0xFFFF#16 (d = 0 ∧ n = 0) (encode (.linkdown d n data))
  | .clrstat d n data => commandRow 0xA000#16 0xFFFF#16 (d = 0 ∧ n = 0) (encode (.clrstat d n data))
  | .reservedB d n data => commandRow 0xB000#16 0xF000#16 True (encode (.reservedB d n data))
  | .reservedC d n data => commandRow 0xC000#16 0xF000#16 True (encode (.reservedC d n data))
  | .reservedD d n data => commandRow 0xD000#16 0xF000#16 True (encode (.reservedD d n data))
  | .reservedE d n data => commandRow 0xE000#16 0xF000#16 True (encode (.reservedE d n data))
  | .reservedF d n data => commandRow 0xF000#16 0xF000#16 True (encode (.reservedF d n data))
  | .rxByte b => encode (.rxByte b) = .rxByte b
  | .regRead a => encode (.regRead a) = .regRead a
  | .evPop => encode .evPop = .evPop
  | .reset => encode .reset = .reset
  | .rxSabm d cr pf payload => frameRow 0x2F#8 (encode (.rxSabm d cr pf payload))
  | .rxUa d cr pf payload => frameRow 0x63#8 (encode (.rxUa d cr pf payload))
  | .rxDm d cr pf payload => frameRow 0x0F#8 (encode (.rxDm d cr pf payload))
  | .rxDisc d cr pf payload => frameRow 0x43#8 (encode (.rxDisc d cr pf payload))
  | .rxUih d cr pf payload => frameRow 0xEF#8 (encode (.rxUih d cr pf payload))
  | .rxUi d cr pf payload => frameRow 0x03#8 (encode (.rxUi d cr pf payload))
  | .rxReserved d cr c payload => (Instr.rxReserved d cr c payload).wellFormed = true →
    ∀ m ∈ [0x2F#8, 0x63#8, 0x0F#8, 0x43#8, 0xEF#8, 0x03#8], ¬ frameRow m (encode (.rxReserved d cr c payload))

/-- A mask over the three fields of a command word masks each field. -/
theorem commandWord_and (op op' : BitVec 4) (d d' : Dlci) (n n' : Arg) :
    commandWord op d n &&& commandWord op' d' n' = commandWord (op &&& op') (d &&& d') (n &&& n') := by
  rw [← commandWord_fields (commandWord op d n &&& commandWord op' d' n')]
  congr 1
  · rw [show ∀ v w : CommandWord, wordOp (v &&& w) = wordOp v &&& wordOp w from fun v w => by ext i hi; simp [wordOp]]
    simp
  · rw [show ∀ v w : CommandWord, wordDlci (v &&& w) = wordDlci v &&& wordDlci w from
      fun v w => by ext i hi; simp [wordDlci]]
    simp
  · rw [show ∀ v w : CommandWord, wordArg (v &&& w) = wordArg v &&& wordArg w from
      fun v w => by ext i hi; simp [wordArg]]
    simp

/-- Two command words are equal where their fields are. -/
theorem commandWord_inj (op op' : BitVec 4) (d d' : Dlci) (n n' : Arg) :
    commandWord op d n = commandWord op' d' n' ↔ op = op' ∧ d = d' ∧ n = n' := by
  refine ⟨fun h => ⟨?_, ?_, ?_⟩, by rintro ⟨rfl, rfl, rfl⟩; rfl⟩
  · simpa using congrArg wordOp h
  · simpa using congrArg wordDlci h
  · simpa using congrArg wordArg h

/-- A row whose mask fixes the operation, DLCI and ARG. -/
theorem noOperandRow (op : BitVec 4) (d : Dlci) (n : Arg) (data : List Byte) :
    commandRow (commandWord op 0 0) 0xFFFF#16 (d = 0 ∧ n = 0) (.command (commandWord op d n) data) := by
  refine ⟨_, _, rfl, ?_⟩
  rw [show (0xFFFF#16 : CommandWord) = BitVec.allOnes 16 from rfl, BitVec.and_allOnes, commandWord_inj]
  simp

/-- A row whose mask fixes the operation and ARG. -/
theorem channelRow (op : BitVec 4) (d : Dlci) (n : Arg) (data : List Byte) :
    commandRow (commandWord op 0 0) 0xF03F#16 (n = 0) (.command (commandWord op d n) data) := by
  refine ⟨_, _, rfl, ?_⟩
  rw [show (0xF03F#16 : CommandWord) = commandWord (BitVec.allOnes 4) 0 (BitVec.allOnes 6) from rfl,
    commandWord_and, BitVec.and_allOnes, BitVec.and_allOnes, commandWord_inj]
  simp

/-- A row whose mask fixes the operation alone. -/
theorem operationRow (op : BitVec 4) (d : Dlci) (n : Arg) (data : List Byte) :
    commandRow (commandWord op 0 0) 0xF000#16 True (.command (commandWord op d n) data) := by
  refine ⟨_, _, rfl, ?_⟩
  rw [show (0xF000#16 : CommandWord) = commandWord (BitVec.allOnes 4) 0 0 from rfl, commandWord_and,
    BitVec.and_allOnes, commandWord_inj]
  simp

theorem nop (d : Dlci) (n : Arg) (data : List Byte) : Statement (.nop d n data) :=
  noOperandRow 0x0 d n data

theorem start (d : Dlci) (n : Arg) (data : List Byte) : Statement (.start d n data) :=
  noOperandRow 0x1 d n data

theorem openCh (d : Dlci) (n : Arg) (data : List Byte) : Statement (.openCh d n data) :=
  noOperandRow 0x2 d n data

theorem closeCh (d : Dlci) (n : Arg) (data : List Byte) : Statement (.closeCh d n data) :=
  channelRow 0x3 d n data

theorem write (d : Dlci) (n : Arg) (data : List Byte) : Statement (.write d n data) :=
  channelRow 0x4 d n data

theorem read (d : Dlci) (n : Arg) (data : List Byte) : Statement (.read d n data) :=
  operationRow 0x5 d n data

theorem txctrl (d : Dlci) (n : Arg) (data : List Byte) : Statement (.txctrl d n data) :=
  noOperandRow 0x6 d n data

theorem teardown (d : Dlci) (n : Arg) (data : List Byte) : Statement (.teardown d n data) :=
  noOperandRow 0x7 d n data

theorem timeout (d : Dlci) (n : Arg) (data : List Byte) : Statement (.timeout d n data) :=
  channelRow 0x8 d n data

theorem linkdown (d : Dlci) (n : Arg) (data : List Byte) : Statement (.linkdown d n data) :=
  noOperandRow 0x9 d n data

theorem clrstat (d : Dlci) (n : Arg) (data : List Byte) : Statement (.clrstat d n data) :=
  noOperandRow 0xA d n data

theorem reservedB (d : Dlci) (n : Arg) (data : List Byte) : Statement (.reservedB d n data) :=
  operationRow 0xB d n data

theorem reservedC (d : Dlci) (n : Arg) (data : List Byte) : Statement (.reservedC d n data) :=
  operationRow 0xC d n data

theorem reservedD (d : Dlci) (n : Arg) (data : List Byte) : Statement (.reservedD d n data) :=
  operationRow 0xD d n data

theorem reservedE (d : Dlci) (n : Arg) (data : List Byte) : Statement (.reservedE d n data) :=
  operationRow 0xE d n data

theorem reservedF (d : Dlci) (n : Arg) (data : List Byte) : Statement (.reservedF d n data) :=
  operationRow 0xF d n data

theorem rxByte (b : Byte) : Statement (.rxByte b) := rfl

theorem regRead (a : Byte) : Statement (.regRead a) := rfl

theorem evPop : Statement .evPop := rfl

theorem reset : Statement .reset := rfl

theorem rxSabm (d : Dlci) (cr pf : Bool) (payload : List Byte) : Statement (.rxSabm d cr pf payload) :=
  ⟨_, _, _, rfl, by cases pf <;> rfl⟩

theorem rxUa (d : Dlci) (cr pf : Bool) (payload : List Byte) : Statement (.rxUa d cr pf payload) :=
  ⟨_, _, _, rfl, by cases pf <;> rfl⟩

theorem rxDm (d : Dlci) (cr pf : Bool) (payload : List Byte) : Statement (.rxDm d cr pf payload) :=
  ⟨_, _, _, rfl, by cases pf <;> rfl⟩

theorem rxDisc (d : Dlci) (cr pf : Bool) (payload : List Byte) : Statement (.rxDisc d cr pf payload) :=
  ⟨_, _, _, rfl, by cases pf <;> rfl⟩

theorem rxUih (d : Dlci) (cr pf : Bool) (payload : List Byte) : Statement (.rxUih d cr pf payload) :=
  ⟨_, _, _, rfl, by cases pf <;> rfl⟩

theorem rxUi (d : Dlci) (cr pf : Bool) (payload : List Byte) : Statement (.rxUi d cr pf payload) :=
  ⟨_, _, _, rfl, by cases pf <;> rfl⟩

theorem rxReserved (d : Dlci) (cr : Bool) (c : Byte) (payload : List Byte) : Statement (.rxReserved d cr c payload) := by
  rintro h m hm ⟨_, _, _, he, hc⟩
  cases he
  simp only [Instr.wellFormed, controlIsReserved, Bool.and_eq_true, Bool.not_eq_true', hc] at h
  simp_all

end Sys2Proof.Laws.TableRow
end

