-- ==== Sys2Proof/Laws/Registers.lean ====
section
/-! SUPPORT. The register layouts as sums of their fields (10_state.md R25 to R30, R42, R43). -/

namespace Sys2Proof.Machine

/-- A field on the left of another counts from that one's width. -/
theorem toNat_append_eq {m n : Nat} (a : BitVec m) (b : BitVec n) : (a ++ b).toNat = a.toNat * 2 ^ n + b.toNat := by
  rw [BitVec.toNat_append, ← Nat.shiftLeft_add_eq_or_of_lt b.isLt, Nat.shiftLeft_eq]

/-- CFG as a sum (R25). -/
theorem cfgRegister_toNat (c : Cfg) (h1 : c.nch ≤ 63) (h2 : c.maxLen ≤ 32767) :
    (cfgRegister c).toNat = (modeCode c.mode).toNat + 2 * (advLenCode c.advLen).toNat + 4 * c.server.toNat + 8 * c.nch +
      65536 * c.maxLen := by
  simp only [cfgRegister, toNat_append_eq, BitVec.toNat_ofNat, BitVec.toNat_ofBool]
  omega

/-- STATUS as a sum (R26). -/
theorem statusRegister_toNat (s : State) :
    (statusRegister s).toNat = (linkCode s.link).toNat + 4 * (roleCode s.role).toNat + 8 * s.desync.toNat +
      16 * s.evOvf.toNat + 32 * s.irq.toNat + 256 * (dstateCode s.dec.dstate).toNat := by
  simp only [statusRegister, toNat_append_eq, BitVec.toNat_ofNat, BitVec.toNat_ofBool]
  omega

/-- A counter register as a sum (R27, R28). -/
theorem counterRegister_toNat (c : BitVec 16) : (counterRegister c).toNat = c.toNat := by
  rw [counterRegister, toNat_append_eq]
  simp

/-- EVCOUNT as a sum (R30). -/
theorem evcountRegister_toNat (s : State) : (evcountRegister s).toNat = min s.evq.length 65535 := by
  simp only [evcountRegister, sat16, toNat_append_eq, BitVec.toNat_ofNat]
  omega

/-- CH[d] as a sum (R43). -/
theorem channelRegister_toNat (c : Channel) :
    (channelRegister c).toNat = (chStateCode c.state).toNat + 4 * c.att.toNat + 16 * c.tmr.toNat + 32 * c.remote.toNat +
      64 * c.ovf.toNat + 65536 * min c.buf.length 65535 := by
  simp only [channelRegister, sat16, toNat_append_eq, BitVec.toNat_ofNat, BitVec.toNat_ofBool]
  omega

/-- The address of CH[d] (R42). -/
theorem registerValue_channel (s : State) (d : Nat) (h : d ≤ s.cfg.nch) (h2 : d ≤ 63) :
    registerValue s (BitVec.ofNat 8 (0x40 + d)) = channelRegister (s.chan d) := by
  have ha : (BitVec.ofNat 8 (0x40 + d)).toNat = 0x40 + d := by simp only [BitVec.toNat_ofNat]; omega
  unfold registerValue
  rw [ha]
  split <;> try omega
  rw [if_pos (by omega)]
  congr 2
  omega

end Sys2Proof.Machine
end

