-- ==== Sys2Proof/Tests/Slice0.lean ====
section
/-! SUPPORT. The tests of the model: ill-formed terms that the checks refuse, words written out from the spec's encodings, single steps with the results of 95_test_vectors.md, and a witness for the hypotheses of each statement. -/

set_option Elab.async false

namespace Sys2Proof.Tests

open Sys2Proof.Machine

/-! ### Small states -/

/-- A channel that is Open. -/
def opened : Channel := { Channel.reset with state := .opened }

/-- A channel that is Opening, at an attempt. -/
def opening (att : BitVec 2) : Channel := { Channel.reset with state := .opening, att := att, tmr := true }

/-- A channel that is Closing. -/
def closing : Channel := { Channel.reset with state := .closing, att := 1, tmr := true }

/-- The state after reset with these first channels and the decoder between frames. -/
def withChannels (cs : List Channel) : State :=
  { State.reset with ch := cs ++ List.replicate (5 - cs.length) Channel.reset, dec := { Decoder.reset with dstate := .addr } }

/-- S_CTL of 95_test_vectors.md: CH[0] is Open. -/
def ctl : State := withChannels [opened]

/-- S_OPEN of 95_test_vectors.md: CH[0] and CH[1] are Open. -/
def data1 : State := withChannels [opened, opened]

/-- S_OPEN, CH[1] Closing and CH[2] Opening, the start of DP3 and DP7. -/
def mixed : State := withChannels [opened, closing, opening 1]

/-- A state of advanced mode with a decoder. -/
def advanced (len : AdvLen) (dec : Decoder) : State :=
  { data1 with cfg := { Config.v0 with mode := .advanced, advLen := len }, dec := dec }

/-- A state of basic mode with the decoder in a DSTATE. -/
def basicIn (d : DState) : State := { data1 with dec := { Decoder.reset with dstate := d } }

/-- A state of advanced mode that holds a body. -/
def bodyState (len : AdvLen) (body : List Byte) : State := advanced len { Decoder.reset with dstate := .body, dbody := body }

/-- A state whose next input is this one. -/
def taking (s : State) (e : Input) : State := { s with pending := [e] }

/-- The result is a next state with this property. -/
def after (r : Result) (p : State → Bool) : Bool :=
  match r with
  | .next t => p t
  | .fault _ => false
  | .refused _ => false

/-- A command from `s` answers a status and appends these bytes to the transmit stream. -/
def answers (i : Instr) (s : State) (status : Status) (bytes : List Byte) : Bool :=
  after (exec i s) (fun t => decide (t.reply = .command status .nothing) && decide (t.tx = s.tx ++ bytes))

/-- An operation from `s` appends these bytes to the transmit stream and these records to EVQ. -/
def tells (i : Instr) (s : State) (bytes : List Byte) (events : List EventRecord) : Bool :=
  after (exec i s) (fun t => decide (t.tx = s.tx ++ bytes) && decide (t.evq = s.evq ++ events))

/-! ### Well-formedness -/

theorem dataFits_replicate (n : Nat) (b : Byte) : dataFits (List.replicate n b) = decide (n ≤ 65535) := by
  simp [dataFits]

theorem payloadFits_replicate (n : Nat) (b : Byte) : payloadFits (List.replicate n b) = decide (n ≤ 32767) := by
  simp [payloadFits]

theorem test_ill_formed_data (d : Dlci) (n : Arg) (b : Byte) :
    (Instr.write d n (List.replicate 65536 b)).wellFormed = false := dataFits_replicate _ b

theorem test_well_formed_longest_data (d : Dlci) (n : Arg) (b : Byte) :
    (Instr.write d n (List.replicate 65535 b)).wellFormed = true := dataFits_replicate _ b

theorem test_ill_formed_payload (d : Dlci) (cr pf : Bool) (b : Byte) :
    (Instr.rxUih d cr pf (List.replicate 32768 b)).wellFormed = false := payloadFits_replicate _ b

theorem test_well_formed_longest_payload (d : Dlci) (cr pf : Bool) (b : Byte) :
    (Instr.rxUih d cr pf (List.replicate 32767 b)).wellFormed = true := payloadFits_replicate _ b

theorem test_ill_formed_reserved_payload (d : Dlci) (cr : Bool) (b : Byte) :
    (Instr.rxReserved d cr 0x00 (List.replicate 32768 b)).wellFormed = false := by
  rw [Instr.wellFormed, payloadFits_replicate]; decide

theorem test_ill_formed_reserved_control : (Instr.rxReserved 1 true 0xFF#8 []).wellFormed = false := by decide

theorem test_reject_long_data (b : Byte) :
    decode (.command 0x4040#16 (List.replicate 65536 b)) = .error .dataOperandTooLong := by
  rw [decode, dataFits_replicate]; rfl

theorem test_reject_long_payload (b : Byte) :
    decode (.frame 0x05#8 0xEF#8 (List.replicate 32768 b)) = .error .payloadTooLong := by
  rw [decode, payloadFits_replicate]; rfl

theorem test_reject_address : decode (.frame 0x04#8 0xEF#8 []) = .error .addressNotExtended := by decide

/-! ### Words written out bit by bit from 30_encoding.md R72, R74 and R84 to R86 -/

theorem test_decode_nop : decode (.command 0b0000000000000000#16 []) = .ok (.nop 0 0 []) := by decide
theorem test_decode_start : decode (.command 0b0001000000000000#16 []) = .ok (.start 0 0 []) := by decide
theorem test_decode_open : decode (.command 0b0010000000000000#16 []) = .ok (.openCh 0 0 []) := by decide
theorem test_decode_close : decode (.command 0b0011000001000000#16 []) = .ok (.closeCh 1 0 []) := by decide
theorem test_decode_write : decode (.command 0b0100000001000000#16 [0x41#8]) = .ok (.write 1 0 [0x41#8]) := by decide
theorem test_decode_read : decode (.command 0b0101111111000010#16 []) = .ok (.read 63 2 []) := by decide
theorem test_decode_txctrl : decode (.command 0b0110000000000000#16 [0x23#8]) = .ok (.txctrl 0 0 [0x23#8]) := by decide
theorem test_decode_teardown : decode (.command 0b0111000000000000#16 []) = .ok (.teardown 0 0 []) := by decide
theorem test_decode_timeout : decode (.command 0b1000000101000001#16 []) = .ok (.timeout 5 1 []) := by decide
theorem test_decode_linkdown : decode (.command 0b1001000000000000#16 []) = .ok (.linkdown 0 0 []) := by decide
theorem test_decode_clrstat : decode (.command 0b1010000000000000#16 []) = .ok (.clrstat 0 0 []) := by decide
theorem test_decode_reserved_b : decode (.command 0b1011000001000001#16 []) = .ok (.reservedB 1 1 []) := by decide
theorem test_decode_reserved_c : decode (.command 0b1100000001000001#16 []) = .ok (.reservedC 1 1 []) := by decide
theorem test_decode_reserved_d : decode (.command 0b1101000001000001#16 []) = .ok (.reservedD 1 1 []) := by decide
theorem test_decode_reserved_e : decode (.command 0b1110000001000001#16 []) = .ok (.reservedE 1 1 []) := by decide
theorem test_decode_reserved_f : decode (.command 0b1111000001000001#16 []) = .ok (.reservedF 1 1 []) := by decide
theorem test_decode_ports : decode (.rxByte 0xF9#8) = .ok (.rxByte 0xF9#8) ∧
    decode (.regRead 0x41#8) = .ok (.regRead 0x41#8) ∧ decode .evPop = .ok .evPop ∧ decode .reset = .ok .reset := by decide
theorem test_decode_sabm : decode (.frame 0b00000111#8 0b00111111#8 []) = .ok (.rxSabm 1 true true []) := by decide
theorem test_decode_ua : decode (.frame 0b00000011#8 0b01100011#8 []) = .ok (.rxUa 0 true false []) := by decide
theorem test_decode_dm : decode (.frame 0b00000101#8 0b00011111#8 []) = .ok (.rxDm 1 false true []) := by decide
theorem test_decode_disc : decode (.frame 0b00001111#8 0b01000011#8 []) = .ok (.rxDisc 3 true false []) := by decide
theorem test_decode_uih : decode (.frame 0b11110111#8 0b11111111#8 [1]) = .ok (.rxUih 61 true true [1]) := by decide
theorem test_decode_ui : decode (.frame 0b00000101#8 0b00000011#8 []) = .ok (.rxUi 1 false false []) := by decide
theorem test_decode_reserved_type :
    decode (.frame 0b00000101#8 0b00000000#8 []) = .ok (.rxReserved 1 false 0 []) := by decide
theorem test_table_words : decodeTableWord 16 0x3040 = some (.closeCh 1 0 []) ∧
    decodeTableWord 8 0x73 = some (.rxUa 0 true true []) ∧ decodeTableWord 0 0 = some .evPop ∧
    decodeTableWord 24 0 = none := by decide

/-! ### The FCS and the encoder, 95_test_vectors.md sections 2.1 and 2.2 -/

theorem test_fcs_check_string :
    fcs [0x31#8, 0x32#8, 0x33#8, 0x34#8, 0x35#8, 0x36#8, 0x37#8, 0x38#8, 0x39#8] = 0x2F#8 := by decide +kernel
theorem test_encode_ui : encodeFrame Config.v0 1 true 0x03#8 [0x41#8, 0x54#8, 0x0D#8] =
    [0xF9#8, 0x07#8, 0x03#8, 0x07#8, 0x41#8, 0x54#8, 0x0D#8, 0x44#8, 0xF9#8] := by decide +kernel
theorem test_encode_stuffed_fcs : encodeFrame { Config.v0 with mode := .advanced } 0 false 0x3F#8 [] =
    [0x7E#8, 0x01#8, 0x3F#8, 0x01#8, 0x7D#8, 0x5D#8, 0x7E#8] := by decide +kernel
theorem test_encode_without_length :
    encodeFrame { Config.v0 with mode := .advanced, advLen := .absent } 1 true 0xEF#8 [0x7E#8] =
    [0x7E#8, 0x07#8, 0xEF#8, 0x7D#8, 0x5E#8, 0x05#8, 0x7E#8] := by decide +kernel
theorem test_length_fields : lenField 127 = [0xFF#8] ∧ lenField 128 = [0x00#8, 0x01#8] ∧ lenField 300 = [0x58#8, 0x02#8] := by
  decide +kernel

/-! ### Single steps, results of 95_test_vectors.md -/

theorem test_nop_illegal : answers (.nop 0 1 []) ctl .illegal [] = true := by decide +kernel
/-- MC1 row 1. -/
theorem test_start : answers (.start 0 0 []) State.reset .ok [0xF9#8, 0x03#8, 0x3F#8, 0x01#8, 0x1C#8, 0xF9#8] = true := by
  decide +kernel
/-- E8 rows 1 and 2: RVAL 1, CH[1] at 0x15. -/
theorem test_open : after (exec (.openCh 0 0 []) ctl) (fun t =>
    decide (t.reply = .command .ok (.dlci 1)) && decide (registerValue t 0x41#8 = 0x15#32)) = true := by decide +kernel
/-- E9 row 1. -/
theorem test_close :
    answers (.closeCh 1 0 []) data1 .ok [0xF9#8, 0x07#8, 0x53#8, 0x01#8, 0x3F#8, 0xF9#8] = true := by decide +kernel
/-- E1. -/
theorem test_write : answers (.write 1 0 [0x41#8, 0x54#8, 0x0D#8]) data1 .ok
    [0xF9#8, 0x07#8, 0xEF#8, 0x07#8, 0x41#8, 0x54#8, 0x0D#8, 0xD3#8, 0xF9#8] = true := by decide +kernel
/-- DP4 row 2. -/
theorem test_read :
    after (exec (.read 1 2 []) (data1.setChan 1 { opened with buf := [0x4F#8, 0x4B#8, 0x0D#8, 0x0A#8] })) (fun t =>
      decide (t.reply = .command .ok (.bytes [0x4F#8, 0x4B#8])) && decide (registerValue t 0x41#8 = 0x20002#32)) = true := by
  decide +kernel
/-- DP5 row 2. -/
theorem test_txctrl : answers (.txctrl 0 0 [0xE3#8, 0x07#8, 0x0D#8]) ctl .ok
    [0xF9#8, 0x03#8, 0xEF#8, 0x09#8, 0xE3#8, 0x05#8, 0x07#8, 0x0D#8, 0xFB#8, 0xF9#8] = true := by decide +kernel
/-- MC14. -/
theorem test_teardown : tells (.teardown 0 0 []) (withChannels [opened, closing])
    [0xF9#8, 0x03#8, 0x53#8, 0x01#8, 0xFD#8, 0xF9#8] [⟨5, 1, 4, []⟩, ⟨5, 0, 4, []⟩] = true := by decide +kernel
/-- T8 row 5: the third TIMEOUT fails the open. -/
theorem test_timeout : tells (.timeout 1 0 []) (withChannels [opened, opening 3]) [] [⟨2, 1, 0, []⟩] = true := by decide +kernel
/-- E12 row 1. -/
theorem test_linkdown : tells (.linkdown 0 0 []) (withChannels [opened, opened, opening 1]) []
    [⟨5, 1, 2, []⟩, ⟨2, 2, 2, []⟩, ⟨5, 0, 2, []⟩] = true := by decide +kernel
/-- Section 2.3.2: CLRSTAT clears DESYNC with no event. -/
theorem test_clrstat : after (exec (.clrstat 0 0 []) { data1 with consecErr := 3, desync := true }) (fun t =>
    decide (registerValue t 0x01#8 = 0x100#32) && decide (t.evq = [])) = true := by decide +kernel
theorem test_reserved : answers (.reservedB 0 0 []) data1 .illegal [] = true ∧
    answers (.reservedF 0 0 []) data1 .illegal [] = true := by decide +kernel
/-- 2.3.1 row 1, byte by byte. -/
theorem test_rx_good_uih : after (feed [0xF9#8, 0x05#8, 0xEF#8, 0x05#8, 0x4F#8, 0x4B#8, 0x51#8, 0xF9#8] data1) (fun t =>
    decide ((t.chan 1).buf = [0x4F#8, 0x4B#8]) && decide (t.evq = [⟨7, 1, 0, []⟩]) && decide (t.rxFrameCnt = 1)) = true := by
  decide +kernel
/-- 2.3.4 row 3: an abort, then a good frame that the same flag opens. -/
theorem test_rx_abort : after (feed [0x7E#8, 0x05#8, 0xEF#8, 0x7D#8, 0x7E#8, 0x05#8, 0xEF#8, 0x03#8, 0x7D#8, 0x5E#8, 0xB5#8,
      0x7E#8] (bodyState .present [])) (fun t =>
    decide ((t.chan 1).buf = [0x7E#8]) && decide (t.frameErrCnt = 1) && decide (t.consecErr = 0)) = true := by decide +kernel
/-- CFG of V0 and of VL (section 0). -/
theorem test_cfg : registerValue State.reset 0x00#8 = 0x001F0026#32 ∧
    registerValue { State.reset with cfg := { Config.v0 with maxLen := 300 } } 0x00#8 = 0x012C0026#32 := by decide +kernel
theorem test_evpop : after (exec .evPop { data1 with evq := [⟨1, 1, 0, []⟩, ⟨7, 1, 0, []⟩] }) (fun t =>
    decide (t.reply = .event true ⟨1, 1, 0, []⟩) && decide (t.evq = [⟨7, 1, 0, []⟩])) = true := by decide +kernel
theorem test_reset : after (exec .reset { mixed with link := .dead, role := .responder }) (fun t =>
    decide (t = State.reset)) = true := by decide +kernel
/-- E11 row 1 and MC7b. -/
theorem test_sabm :
    tells (.rxSabm 0 true true []) State.reset [0xF9#8, 0x03#8, 0x73#8, 0x01#8, 0xD7#8, 0xF9#8] [⟨6, 0, 0, []⟩] = true ∧
    tells (.rxSabm 1 true true []) State.reset [0xF9#8, 0x05#8, 0x1F#8, 0x01#8, 0x95#8, 0xF9#8] [] = true := by decide +kernel
/-- E9 row 3. -/
theorem test_ua : tells (.rxUa 1 true true []) mixed [] [⟨3, 1, 0, []⟩] = true := by decide +kernel
/-- MC9 rows 1 and 2. -/
theorem test_dm : tells (.rxDm 2 true true []) mixed [] [⟨2, 2, 1, []⟩] = true ∧
    tells (.rxDm 1 true true []) mixed [] [⟨3, 1, 0, []⟩] = true := by decide +kernel
/-- MC6 and MC10 row 1. -/
theorem test_disc : tells (.rxDisc 0 false true []) (withChannels [opened, opened, opening 1])
      [0xF9#8, 0x01#8, 0x73#8, 0x01#8, 0xB6#8, 0xF9#8] [⟨5, 0, 5, []⟩, ⟨5, 1, 3, []⟩, ⟨2, 2, 3, []⟩] = true ∧
    tells (.rxDisc 4 false true []) mixed [0xF9#8, 0x11#8, 0x1F#8, 0x01#8, 0xDD#8, 0xF9#8] [] = true := by decide +kernel
/-- DP8 row 2: the frame that does not fit is dropped whole. -/
theorem test_uih_overflow :
    after (exec (.rxUih 1 false false [0x64#8, 0x65#8]) { data1.setChan 1 { opened with buf := [0x61#8, 0x62#8, 0x63#8] } with
      design := { Config.v0Design with bufCap := some 4 } }) (fun t =>
      decide (t.evq = [⟨8, 1, 0, []⟩]) && decide (t.chan 1 = { opened with buf := [0x61#8, 0x62#8, 0x63#8], ovf := true }))
      = true := by decide +kernel
/-- DP6 rows 3 and 6. -/
theorem test_ui_control : tells (.rxUi 0 false false [0x23#8, 0x02#8, 0x00#8, 0x55#8]) ctl [] [⟨9, 0, 0x23, [0x55#8]⟩] = true ∧
    after (exec (.rxUi 0 false false [0xE1#8, 0x07#8, 0x07#8]) ctl) (fun t =>
      decide (t.frameErrCnt = 1) && decide (t.consecErr = 0)) = true := by decide +kernel
/-- 2.3.1: control byte 0x00. -/
theorem test_reserved_type : after (exec (.rxReserved 1 false 0 []) data1) (fun t =>
    decide (t.frameErrCnt = 1) && decide (t.consecErr = 1)) = true := by decide +kernel
theorem test_fetch_word : after (step (State.reset.withFetchWord 16 0x1000)) (fun t =>
      decide (t.reply = .command .ok .nothing) && decide ((t.chan 0).state = .opening)) = true ∧
    after (step (State.reset.withFetchWord 8 0x3F)) (fun t => decide ((t.chan 0).state = .opened)) = true := by decide +kernel

/-! ### A witness for the hypotheses of each statement: a concrete state and operands that meet them together -/

/-- Every kind of state in use: EVQ full, DESYNC set, a buffer full, the decoder in a payload, one channel in each state. -/
def busy : State :=
  { withChannels [opened, { closing with buf := List.replicate 31 1, ovf := true }, opening 3] with
    design := { bufCap := some 31, evqDepth := some 1, desyncThreshold := 3 }
    evq := [⟨9, 0, 0x23, [1]⟩]
    consecErr := 3
    desync := true
    writing := true
    dec := { Decoder.reset with dstate := .data, dl := 31, dpl := List.replicate 30 1 } }

/-- The largest configuration of R8 and R9. -/
def largest : Cfg := { Config.v0 with nch := 61, maxLen := 32767 }

/-- `data1` with a link, and with a role. -/
def withLink (l : LinkState) : State := { data1 with link := l }

theorem witness_DecodeOfEncodeIsTheInstruction : (Instr.read 63 63 [0]).wellFormed = true ∧
    (Instr.rxReserved 63 true 0xFE#8 [0]).wellFormed = true := by decide
theorem witness_EncodeOfDecodeIsTheBits : decode (.frame 0xFF#8 0xFF#8 [0]) = .ok (.rxUih 63 true true [0]) ∧
    decode (.command 0xFFFF#16 [0]) = .ok (.reservedF 63 63 [0]) := by decide
/-- An escape of each kind and a plain byte, and a body that fills MAXBODY. -/
theorem witness_StuffedBytesHoldNoFlag :
    (let s := bodyState .present [0x05#8, 0xEF#8];
      s.link = .up ∧ s.cfg.mode = .advanced ∧ s.dec.dstate = .body ∧ s.reply = .nothing ∧
      s.dec.dbody.length + [0x7E#8, 0x7D#8, 0x20#8].length ≤ s.cfg.maxLen + 5 ∧
      stuff [0x7E#8, 0x7D#8, 0x20#8] = [0x7D#8, 0x5E#8, 0x7D#8, 0x5D#8, 0x20#8] ∧
      s.dec.dbody.length + (List.replicate 34 0x7E#8).length = s.cfg.maxLen + 5) := by decide +kernel
theorem witness_BasicFrameIsReceivedAsSent :
    State.reset.link = .up ∧ State.reset.cfg.mode = .basic ∧ State.reset.dec.dstate = .hunt ∧
    data1.link = .up ∧ data1.cfg.mode = .basic ∧ data1.dec.dstate = .addr ∧ (61#6).toNat ≤ 61 ∧
    (List.replicate 31 0xF9#8).length ≤ data1.cfg.maxLen ∧ data1.cfg.maxLen ≤ 32767 := by decide
theorem witness_AdvancedFrameIsReceivedAsSent :
    let s := advanced .absent Decoder.reset;
    let t := bodyState .present [];
    (s.link = .up ∧ s.cfg.mode = .advanced ∧ s.dec.dstate = .hunt) ∧
    (t.link = .up ∧ t.cfg.mode = .advanced ∧ t.dec.dstate = .body ∧ t.dec.dbody = []) ∧
    (List.replicate 31 0x7E#8).length ≤ s.cfg.maxLen ∧ s.cfg.maxLen ≤ 32767 := by decide
theorem witness_ResetOperationEstablishesTheInvariant :
    configInRange busy.design busy.pins = true ∧ configInRange Config.v0Design largest = true := by decide

/-- `busy` meets the whole invariant. -/
theorem busy_inv (e : Input) : (taking busy e).Inv where
  configured := (by decide +kernel : busy.configured)
  channels := (by decide +kernel : busy.channelsConsistent)
  decoder := (by decide +kernel : busy.decoderConsistent)
  linkHealth := (by decide +kernel : busy.linkHealthConsistent)
  capacity := (by decide +kernel : busy.withinCapacity)
  events := (by decide +kernel : busy.eventsLegal)
  ownership := (by decide +kernel : busy.ownershipConsistent)

/-- `busy` takes the last byte of the payload, and a LINKDOWN. -/
theorem busy_steps : (∃ t, step (taking busy (.rxByte 1)) = .next t) ∧
    ∃ t, step (taking busy (.command 0x9000#16 [])) = .next t := ⟨⟨_, rfl⟩, ⟨_, rfl⟩⟩

theorem witness_EveryStepKeepsTheInvariant :
    (taking busy (.command 0x9000#16 [])).Inv ∧ ∃ t, step (taking busy (.command 0x9000#16 [])) = .next t :=
  ⟨busy_inv _, busy_steps.2⟩
theorem witness_EveryStepKeepsChannelsConsistent :
    (taking busy (.command 0x9000#16 [])).channelsConsistent ∧ ∃ t, step (taking busy (.command 0x9000#16 [])) = .next t :=
  ⟨(busy_inv _).channels, busy_steps.2⟩
theorem witness_EveryStepKeepsDecoderConsistent :
    (taking busy (.rxByte 1)).decoderConsistent ∧ ∃ t, step (taking busy (.rxByte 1)) = .next t :=
  ⟨(busy_inv _).decoder, busy_steps.1⟩
theorem witness_EveryStepKeepsLinkHealthConsistent :
    (taking busy (.rxByte 1)).linkHealthConsistent ∧ ∃ t, step (taking busy (.rxByte 1)) = .next t :=
  ⟨(busy_inv _).linkHealth, busy_steps.1⟩
theorem witness_EveryStepKeepsWithinCapacity :
    (taking busy (.command 0x9000#16 [])).withinCapacity ∧ ∃ t, step (taking busy (.command 0x9000#16 [])) = .next t :=
  ⟨(busy_inv _).capacity, busy_steps.2⟩
theorem witness_EveryStepKeepsEventsLegal :
    (taking busy (.command 0x9000#16 [])).eventsLegal ∧ ∃ t, step (taking busy (.command 0x9000#16 [])) = .next t :=
  ⟨(busy_inv _).events, busy_steps.2⟩
theorem witness_InputsInContractNeverStopTheBlock :
    (taking busy .reset).Inv ∧ (taking busy .reset).pending = [.reset] ∧ busy.inputInContract .reset = true ∧
    (taking busy (.setPins largest)).Inv ∧ (taking busy (.setPins largest)).pending = [.setPins largest] ∧
    busy.inputInContract (.setPins largest) = true := by
  refine ⟨busy_inv _, rfl, ?_, busy_inv _, rfl, rfl⟩; decide

theorem witness_StepRunsTheDecodedInput :
    (taking ctl (.command 0x2000#16 [])).pending = [.command 0x2000#16 []] ∧
    (Input.command 0x2000#16 []).encoded = some (.command 0x2000#16 []) ∧
    decode (.command 0x2000#16 []) = .ok (.openCh 0 0 []) := by decide
theorem taking_pending (s : State) (e : Input) : (taking s e).pending = [e] := rfl

theorem witness_StepTakesEnvironmentEvents :
    (taking ctl (.setPins largest)).pending = [.setPins largest] ∧
    (taking busy (.foreignWrite 0)).pending = [.foreignWrite 0] ∧ busy.writing = true ∧
    (taking ctl .txRefused).pending = [.txRefused] ∧
    ctl.pending = [] := ⟨rfl, rfl, rfl, rfl, rfl⟩
/-- The clause of StepTakesEnvironmentEvents about an operand of 65536 bytes. -/
theorem witness_StepTakesEnvironmentEvents_long : ∃ data : List Byte,
    (taking ctl (.command 0x4040#16 data)).pending = [.command 0x4040#16 data] ∧ 65535 < data.length :=
  have h : ∀ n : Nat, 65535 < n → ∃ data : List Byte,
      (taking ctl (.command 0x4040#16 data)).pending = [.command 0x4040#16 data] ∧ 65535 < data.length :=
    fun n hn => ⟨List.replicate n 0, taking_pending _ _, by simpa using hn⟩
  h 65536 (by decide)
/-- A next state with a property that is decided. -/
theorem reaches {r : Result} {p : State → Prop} [DecidablePred p] (h : after r (fun t => decide (p t)) = true) :
    ∃ t, r = .next t ∧ p t := by
  cases r with
  | next t => exact ⟨t, rfl, of_decide_eq_true h⟩
  | fault _ => cases h
  | refused _ => cases h

theorem witness_ConfigurationAndLinkChangeOnlyByTheirRules :
    (∃ t, exec .reset (withLink .dead) = .next t ∧ t.link ≠ (withLink .dead).link) ∧
    (∃ t, exec (.linkdown 0 0 []) data1 = .next t ∧ t.link ≠ data1.link) ∧
    (∃ t, exec (.teardown 0 0 []) data1 = .next t ∧ t.link ≠ data1.link) ∧
    ∃ t, exec (.start 0 0 []) State.reset = .next t ∧ Instr.start 0 0 [] ≠ .reset :=
  ⟨reaches (by decide +kernel), reaches (by decide +kernel), reaches (by decide +kernel), reaches (by decide +kernel)⟩
/-- Two next states that are decided to be the same. -/
theorem same {r q : Result} (h : after r (fun t => after q (fun u => decide (t = u))) = true) : r = q := by
  cases r <;> cases q <;> simp_all [after]

/-- A state before the closing flag of a SABM. -/
def beforeSabm (s : State) (a : Byte) : State := { s with dec := decoderBeforeClose Config.v0 a 0x3F#8 [] }

theorem witness_RoleChangesInTwoPlacesAndReset :
    (∃ t, exec .reset { ctl with role := .responder } = .next t ∧ t.role ≠ .responder) ∧
    (∃ t, exec (.start 0 0 []) { State.reset with role := .responder } = .next t ∧ t.role ≠ .responder) ∧
    (∃ t, exec (.rxSabm 0 true true []) State.reset = .next t ∧ t.role ≠ State.reset.role) ∧
    (∃ t, exec (.rxByte 0xF9#8) (beforeSabm State.reset 0x03#8) = .next t ∧ t.role ≠ State.reset.role) ∧
    (beforeSabm State.reset 0x03#8).completes (.rxByte 0xF9#8) (.rxSabm 0 true true []) :=
  ⟨reaches (by decide +kernel), reaches (by decide +kernel), reaches (by decide +kernel), reaches (by decide +kernel),
    .inr ⟨rfl, .inl rfl, { decoderBeforeClose Config.v0 0x03#8 0x3F#8 [] with dstate := .addr }, same (by decide +kernel)⟩⟩
theorem witness_TransmitStreamGrowsByWholeFrames :
    ∃ t, exec (.write 1 0 (List.replicate 32 0x30#8)) data1 = .next t ∧ t.tx ≠ data1.tx ∧ t.txFrameCnt = 2 :=
  reaches (by decide +kernel)
theorem witness_OnlyReceivedBytesAndLossMoveTheDecoder :
    (∃ t, exec (.rxByte 0xF9#8) State.reset = .next t ∧ t.dec ≠ State.reset.dec) ∧
    (∃ t, exec (.linkdown 0 0 []) data1 = .next t ∧ t.dec ≠ data1.dec) ∧
    (∃ t, exec (.teardown 0 0 []) data1 = .next t ∧ t.dec ≠ data1.dec) ∧
    ∃ t, exec .reset data1 = .next t ∧ t.dec ≠ data1.dec :=
  ⟨reaches (by decide +kernel), reaches (by decide +kernel), reaches (by decide +kernel), reaches (by decide +kernel)⟩
theorem witness_RefusedCommandsChangeNothing :
    (∃ t, exec (.write 2 0 [0x78#8]) data1 = .next t ∧ t.reply = .command .state .nothing ∧ Status.state ≠ .ok) ∧
    statusCode .tooLong = 7 := ⟨reaches (by decide +kernel), rfl⟩
theorem witness_EventsAreOnlyAppended :
    ∃ t, exec (.rxUa 2 true true []) mixed = .next t ∧ Instr.rxUa 2 true true [] ≠ .evPop ∧
      Instr.rxUa 2 true true [] ≠ .reset ∧ t.evq ≠ mixed.evq := reaches (by decide +kernel)
theorem witness_CountersFallOnlyByClrstatAndReset :
    ∃ t, exec (.rxReserved 1 true 0 []) { data1 with frameErrCnt := 0xFFFF } = .next t ∧
      Instr.rxReserved 1 true 0 [] ≠ .reset ∧ t.frameErrCnt = 0xFFFF ∧ t.consecErr = 1 := reaches (by decide +kernel)
/-- CH[1] is Closed and still holds a byte. -/
def kept : State := ctl.setChan 1 { Channel.reset with buf := [1] }

theorem witness_BuffersKeepArrivalOrder :
    (∃ t, exec (.rxUih 1 true true [2]) (data1.setChan 1 { opened with buf := [1] }) = .next t ∧ (t.chan 1).buf = [1, 2]) ∧
    (∃ t, exec (.read 1 1 []) (data1.setChan 1 { opened with buf := [1, 2] }) = .next t ∧ (t.chan 1).buf = [2]) ∧
    (∃ t, exec (.teardown 0 0 []) kept = .next t ∧ (t.chan 1).buf = []) ∧
    (∃ t, exec .reset kept = .next t ∧ (t.chan 1).buf = []) ∧
    (∃ t, exec (.openCh 0 0 []) kept = .next t ∧ (t.chan 1).buf = [] ∧ t.reply = .command .ok (.dlci 1) ∧
      (t.chan 1).state = .opening) ∧
    (∃ t, exec (.rxSabm 1 true true []) kept = .next t ∧ (t.chan 1).buf = [] ∧ (t.chan 1).state = .opened) ∧
    (∃ t, exec (.rxByte 0xF9#8) (beforeSabm kept 0x07#8) = .next t ∧ (t.chan 1).buf = [] ∧ (t.chan 1).remote = true) ∧
    (beforeSabm kept 0x07#8).completes (.rxByte 0xF9#8) (.rxSabm 1 true true []) :=
  ⟨reaches (by decide +kernel), reaches (by decide +kernel), reaches (by decide +kernel), reaches (by decide +kernel),
    reaches (by decide +kernel), reaches (by decide +kernel), reaches (by decide +kernel),
    .inr ⟨rfl, .inl rfl, { decoderBeforeClose Config.v0 0x07#8 0x3F#8 [] with dstate := .addr }, same (by decide +kernel)⟩⟩
theorem witness_IllegalEncodingsReturnIllegal : illegalEncoding (.reservedB 0 0 []) = true ∧
    illegalEncoding (.reservedC 0 0 []) = true ∧ illegalEncoding (.reservedD 0 0 []) = true ∧
    illegalEncoding (.reservedE 0 0 []) = true ∧ illegalEncoding (.reservedF 63 63 []) = true ∧
    illegalEncoding (.nop 0 1 []) = true ∧ illegalEncoding (.start 1 0 []) = true ∧ illegalEncoding (.closeCh 1 1 []) = true ∧
    illegalEncoding (.txctrl 0 0 []) = true ∧ illegalEncoding (.txctrl 0 0 [0xE2#8]) = true := by decide

theorem witness_StartOpensTheControlChannel : ((1#6 : Dlci) ≠ 0 ∧ (1#6 : Arg) ≠ 0) ∧
    ((withLink .down).link ≠ .up ∧ (withLink .dead).link ≠ .up) ∧
    (ctl.link = .up ∧ (ctl.chan 0).state ≠ .closed) ∧
    (State.reset.link = .up ∧ (State.reset.chan 0).state = .closed) := by decide
theorem witness_OpenTakesTheLowestClosedChannel :
    ((withLink .down).link ≠ .up ∧ (withLink .dead).link ≠ .up) ∧
    (State.reset.link = .up ∧ (State.reset.chan 0).state ≠ .opened) ∧
    (let full := withChannels (List.replicate 5 opened);
      full.link = .up ∧ (full.chan 0).state = .opened ∧ ∀ d, d ≤ full.cfg.nch → 1 ≤ d → (full.chan d).state ≠ .closed) ∧
    (ctl.link = .up ∧ (ctl.chan 0).state = .opened ∧ 1 ≤ ctl.cfg.nch ∧ (ctl.chan 1).state = .closed) ∧
    (let last := withChannels (List.replicate 4 opened);
      last.link = .up ∧ (last.chan 0).state = .opened ∧ (last.chan last.cfg.nch).state = .closed ∧
      ∀ d, d < last.cfg.nch → 1 ≤ d → (last.chan d).state ≠ .closed) := by decide +kernel
theorem witness_CloseSendsDiscOnAnOpenChannel :
    (withLink .dead).link = .dead ∧ (data1.link ≠ .dead ∧ data1.cfg.nch < (5#6).toNat) ∧
    ((withLink .down).link = .down ∧ (4#6).toNat ≤ (withLink .down).cfg.nch) ∧
    (data1.link = .up ∧ (data1.chan (4#6).toNat).state ≠ .opened) ∧
    (data1.link = .up ∧ ∃ e, 1 ≤ e ∧ e ≤ data1.cfg.nch ∧ (data1.chan e).state ≠ .closed) ∧
    (data1.link = .up ∧ (data1.chan (1#6).toNat).state = .opened ∧ (1#6 : Dlci) ≠ 0) ∧
    (ctl.link = .up ∧ (ctl.chan 0).state = .opened ∧ ∀ e, e ≤ ctl.cfg.nch → 1 ≤ e → (ctl.chan e).state = .closed) := by
  refine ⟨rfl, by decide, by decide, by decide, ⟨rfl, 1, by decide⟩, by decide, by decide +kernel⟩
theorem witness_TimeoutResendsOrFails : data1.cfg.nch < (5#6).toNat ∧
    ((4#6).toNat ≤ data1.cfg.nch ∧ (data1.chan (4#6).toNat).tmr = false) ∧
    ((mixed.chan (2#6).toNat).tmr = true ∧ (mixed.chan (2#6).toNat).state = .opening ∧
      (mixed.chan (2#6).toNat).att.toNat < 3) ∧
    ((busy.chan (2#6).toNat).tmr = true ∧ (busy.chan (2#6).toNat).state = .opening ∧
      (busy.chan (2#6).toNat).att.toNat = 3) ∧
    ((mixed.chan (1#6).toNat).tmr = true ∧ (mixed.chan (1#6).toNat).state = .closing ∧
      1 ≤ (mixed.chan (1#6).toNat).att.toNat) ∧
    (let s := withChannels [opened, { closing with att := 0 }];
      (s.chan (1#6).toNat).tmr = true ∧ (s.chan (1#6).toNat).state = .closing ∧ (s.chan (1#6).toNat).att.toNat = 0) ∧
    (data1.chan (4#6).toNat).state = .closed ∧ (data1.chan (1#6).toNat).state = .opened := by decide
theorem witness_ClosingAChannelAndTheCascade : mixed.tableComplete ∧ mixed.withinCapacity ∧ busy.tableComplete ∧
    busy.withinCapacity ∧ (mixed.chan 0).state ≠ .closed ∧ (mixed.chan 2).state ≠ .closed ∧
    (mixed.chan 3).state = .closed := by decide +kernel
theorem witness_LinkdownClosesEveryChannel : (withLink .dead).link ≠ .up ∧ (withLink .down).link ≠ .up ∧
    busy.tableComplete ∧ busy.withinCapacity ∧ busy.link = .up := by decide +kernel
theorem witness_TeardownDisconnectsAndKillsTheBlock : (withLink .dead).link ≠ .up ∧ (withLink .down).link ≠ .up ∧
    busy.tableComplete ∧ busy.withinCapacity ∧ busy.link = .up ∧ (busy.chan 0).state = .opened := by decide +kernel
theorem witness_WriteSendsTheDataInFullFrames : (withLink .down).link ≠ .up ∧
    (data1.link = .up ∧ data1.cfg.nch < (5#6).toNat) ∧
    (data1.link = .up ∧ 1 ≤ (4#6).toNat ∧ (4#6).toNat ≤ data1.cfg.nch ∧ (data1.chan (4#6).toNat).state ≠ .opened) ∧
    (data1.link = .up ∧ 1 ≤ (1#6).toNat ∧ (1#6).toNat ≤ data1.cfg.nch ∧ (data1.chan (1#6).toNat).state = .opened ∧
      1 ≤ data1.cfg.maxLen) := by decide
theorem witness_ClrstatClearsTheStatistics : (1#6 : Dlci) ≠ 0 ∧ (63#6 : Arg) ≠ 0 := by decide
theorem witness_ReadRemovesFromTheFront : (withLink .dead).link = .dead ∧
    ((withLink .down).link ≠ .dead ∧ (withLink .down).cfg.nch < (63#6).toNat) ∧
    ((withLink .down).link ≠ .dead ∧ 1 ≤ (4#6).toNat ∧ (4#6).toNat ≤ (withLink .down).cfg.nch) := by decide
/-- The last clause of ReadRemovesFromTheFront: a full buffer, with a finite P_BUFCAP. -/
theorem witness_ReadRemovesFromTheFront_finite : busy.configured ∧ busy.withinCapacity ∧ busy.design.bufCap ≠ none ∧
    ∃ t, exec (.read 1 0 []) busy = .next t ∧ t.reply = .command .ok (.bytes (List.replicate 31 1)) :=
  ⟨by decide +kernel, by decide +kernel, by decide, reaches (by decide +kernel)⟩
/-- A buffer of 65536 bytes, all of which a READ with n = 0 removes. -/
theorem witness_ReadRemovesFromTheFront_long : ∃ s : State, s.link ≠ .dead ∧ 1 ≤ s.cfg.nch ∧
    (s.chan 1).buf.length = 65536 :=
  have h : ∀ n : Nat, ∃ s : State, s.link ≠ .dead ∧ 1 ≤ s.cfg.nch ∧ (s.chan 1).buf.length = n := fun n =>
    ⟨data1.setChan 1 { opened with buf := List.replicate n 0 }, nofun, (by decide : 1 ≤ data1.cfg.nch), List.length_replicate⟩
  h 65536
theorem witness_TxctrlSendsOneControlMessage : (([] : List Byte).headD 0).getLsbD 0 = false ∧
    (0x23#8).getLsbD 0 = true ∧ (withLink .down).link ≠ .up ∧
    (State.reset.link = .up ∧ (State.reset.chan 0).state ≠ .opened) ∧
    (ctl.link = .up ∧ (ctl.chan 0).state = .opened ∧
      ctl.cfg.maxLen < 1 + (lenField (List.replicate 30 (0 : Byte)).length).length + (List.replicate 30 (0 : Byte)).length) ∧
    (List.replicate 29 (0 : Byte)).length ≤ 32767 ∧
    1 + (lenField (List.replicate 29 (0 : Byte)).length).length + (List.replicate 29 (0 : Byte)).length ≤ ctl.cfg.maxLen := by
  decide

theorem witness_RegisterReadsReturnTheLayouts : busy.configured ∧ 4 ≤ busy.cfg.nch ∧
    ((0x02#8, busy.fcsErrCnt) ∈ [((0x02#8 : Byte), busy.fcsErrCnt), (0x08, busy.consecErr)]) ∧
    State.configured { State.reset with cfg := largest } := by decide +kernel
theorem witness_UnlistedAddressesReadZero : (0x0A ≤ (0x0A#8).toNat ∧ (0x0A#8).toNat < 0x40) ∧
    (0x0A ≤ (0x3F#8).toNat ∧ (0x3F#8).toNat < 0x40) ∧
    (0x0A ≤ (0x45#8).toNat ∧ 0x40 + State.reset.cfg.nch < (0x45#8).toNat) := by decide
theorem witness_EvpopReturnsTheOldestEvent : State.reset.evq = [] ∧ busy.evq = ⟨9, 0, 0x23, [1]⟩ :: [] := by decide
theorem witness_ResetSetsEveryField : configInRange busy.design busy.pins = true ∧
    configInRange busy.design { busy.pins with nch := 61, maxLen := 1 } = true := by decide
theorem witness_ResetRefusesAConfigurationOutOfRange :
    configInRange Config.v0Design { Config.v0 with nch := 62 } = false ∧
    configInRange Config.v0Design { Config.v0 with maxLen := 0 } = false := by decide

theorem witness_BytesAreIgnoredWhileTheLinkIsNotUp : (withLink .down).link ≠ .up ∧ (withLink .dead).link ≠ .up := by decide
theorem witness_BasicByteBeforeTheClosingFlag : ∀ d ∈ [DState.hunt, .addr, .ctrl, .data, .fcs],
    (basicIn d).link = .up ∧ (basicIn d).cfg.mode = .basic ∧ (basicIn d).dec.dstate = d := by decide +kernel
theorem witness_BasicLengthBytes :
    ((basicIn .len1).link = .up ∧ (basicIn .len1).cfg.mode = .basic ∧ (basicIn .len1).dec.dstate = .len1 ∧
      (0xFE#8).getLsbD 0 = false) ∧
    ((0x3F#8).getLsbD 0 = true ∧ (0x3F#8).toNat / 2 ≤ (basicIn .len1).cfg.maxLen) ∧
    ((0x41#8).getLsbD 0 = true ∧ (basicIn .len1).cfg.maxLen < (0x41#8).toNat / 2) ∧
    ((basicIn .len2).dec.dstate = .len2 ∧ (basicIn .len2).dec.dl0.toNat / 2 + 128 * (0x00#8).toNat ≤ (basicIn .len2).cfg.maxLen) ∧
    ((basicIn .len2).cfg.maxLen < (basicIn .len2).dec.dl0.toNat / 2 + 128 * (0x01#8).toNat) := by decide +kernel
theorem witness_BasicClosingByteRunsTheFrame :
    (let d := decoderBeforeClose Config.v0 0x03#8 0x3F#8 [];
      let s := { ctl with dec := d };
      s.link = .up ∧ s.cfg.mode = .basic ∧ s.dec.dstate = .close ∧
      fcs (covered ([d.da, d.dc, d.dl0] ++ d.dl1.toList) d.dc d.dpl) = d.df ∧ d.da.getLsbD 0 = true) ∧
    (let d := { decoderBeforeClose Config.v0 0x03#8 0x3F#8 [] with df := 0x1D#8 };
      fcs (covered ([d.da, d.dc, d.dl0] ++ d.dl1.toList) d.dc d.dpl) ≠ d.df) ∧
    (let d := decoderBeforeClose Config.v0 0x04#8 0xEF#8 [];
      fcs (covered ([d.da, d.dc, d.dl0] ++ d.dl1.toList) d.dc d.dpl) = d.df ∧ d.da.getLsbD 0 = false) := by decide +kernel
theorem witness_AdvancedByteInsideABody : ∀ d ∈ [DState.hunt, .body, .esc],
    let s := advanced .present { Decoder.reset with dstate := d };
    s.link = .up ∧ s.cfg.mode = .advanced ∧ s.dec.dstate = d ∧ s.dec.dbody = [] ∧ (0x5E#8 : Byte) ≠ 0x7E#8 ∧
      (0x5E#8 : Byte) ≠ 0x7D#8 ∧ 0x7E#8 = 0x5E#8 ^^^ 0x20#8 := by decide +kernel
theorem witness_AdvancedFlagRunsTheBody :
    (let s := bodyState .absent [0x05#8, 0xEF#8];
      s.link = .up ∧ s.cfg.mode = .advanced ∧ s.cfg.advLen = .absent ∧ s.dec.dstate = .body ∧ s.dec.dbody ≠ [] ∧
        s.dec.dbody.length < 3) ∧
    (let s := bodyState .absent (List.replicate 35 0);
      s.cfg.maxLen + 3 < s.dec.dbody.length) ∧
    (let s := bodyState .absent (0x05#8 :: 0xEF#8 :: (List.replicate 31 0x41#8 ++ [0xDF#8]));
      s.dec.dbody = 0x05#8 :: 0xEF#8 :: (List.replicate 31 0x41#8 ++ [0xDF#8]) ∧
        (List.replicate 31 0x41#8).length ≤ s.cfg.maxLen) ∧
    (let s := bodyState .present [0x05#8, 0xEF#8, 0x00#8, 0x56#8];
      s.link = .up ∧ s.cfg.mode = .advanced ∧ s.cfg.advLen = .present ∧ s.dec.dstate = .body ∧ s.dec.dbody ≠ [] ∧
        s.dec.dbody.length = 4 ∧ (s.dec.dbody.getD 2 0).getLsbD 0 = false) ∧
    ((bodyState .present [0x05#8, 0xEF#8, 0x01#8, 0x56#8]).dec.dbody =
      0x05#8 :: 0xEF#8 :: 0x01#8 :: (([] : List Byte) ++ [0x56#8]) ∧ (0x01#8).getLsbD 0 = true) ∧
    ((bodyState .present [0x05#8, 0xEF#8, 0x02#8, 0x00#8, 0x41#8, 0x0F#8]).dec.dbody =
      0x05#8 :: 0xEF#8 :: 0x02#8 :: 0x00#8 :: ([0x41#8] ++ [0x0F#8]) ∧ (0x02#8).getLsbD 0 = false) := by decide +kernel
/-- One error before the threshold of 3, EVQ full and with room, and DESYNC set, EVQ full and with room. -/
theorem witness_FrameErrorsGoodFramesAndEvents :
    (let s := { busy with consecErr := 2, desync := false };
      s.design.desyncThreshold ≤ (satInc s.consecErr).toNat ∧ s.desync = false ∧ s.design.evqDepth = some s.evq.length) ∧
    (let s := { busy with consecErr := 2, desync := false, evq := [] };
      s.design.desyncThreshold ≤ (satInc s.consecErr).toNat ∧ s.desync = false ∧ s.design.evqDepth ≠ some s.evq.length) ∧
    (busy.desync = true ∧ busy.design.evqDepth = some busy.evq.length) ∧
    State.reset.design.evqDepth ≠ some State.reset.evq.length := by decide +kernel

theorem witness_MalformedFramesAreDropped : (withLink .down).link ≠ .up ∧ data1.link = .up ∧
    data1.cfg.nch < (5#6).toNat ∧ (4#6).toNat ≤ data1.cfg.nch ∧ ([0x41#8] : List Byte) ≠ [] := by decide
theorem witness_SabmIsAnsweredInEveryState :
    (State.reset.link = .up ∧ (State.reset.chan 0).state = .closed ∧ State.reset.cfg.server = true) ∧
    (ctl.link = .up ∧ (4#6).toNat ≤ ctl.cfg.nch ∧ (ctl.chan (4#6).toNat).state = .closed ∧ ctl.cfg.server = true ∧
      (4#6 : Dlci) ≠ 0 ∧ (ctl.chan 0).state = .opened) ∧
    (State.reset.chan (1#6).toNat).state = .closed ∧ (State.reset.chan 0).state ≠ .opened ∧
    (mixed.link = .up ∧ (mixed.chan (0#6).toNat).state = .opened ∧ (mixed.chan (1#6).toNat).state = .closing ∧
      (mixed.chan (2#6).toNat).state = .opening) := by decide
theorem witness_UaAndDmInEveryState : mixed.link = .up ∧ (4#6).toNat ≤ mixed.cfg.nch ∧
    (mixed.chan (0#6).toNat).state = .opened ∧ (mixed.chan (1#6).toNat).state = .closing ∧
    (mixed.chan (2#6).toNat).state = .opening ∧ (mixed.chan (4#6).toNat).state = .closed := by decide
theorem witness_DiscIsAnsweredAndCloses : mixed.link = .up ∧ (4#6).toNat ≤ mixed.cfg.nch ∧
    (mixed.chan (0#6).toNat).state = .opened ∧ (mixed.chan (1#6).toNat).state = .closing ∧
    (mixed.chan (2#6).toNat).state = .opening ∧ (mixed.chan (4#6).toNat).state = .closed := by decide
theorem witness_DataFramesFillTheBuffer : mixed.link = .up ∧ (4#6).toNat ≤ mixed.cfg.nch ∧
    (mixed.chan (2#6).toNat).state = .opening ∧ (mixed.chan (4#6).toNat).state = .closed ∧
    (mixed.chan (1#6).toNat).state = .closing ∧ (1#6 : Dlci) ≠ 0 ∧
    fitsCapacity ((busy.chan (1#6).toNat).buf.length + 1) busy.design.bufCap = false ∧
    fitsCapacity ((busy.chan (0#6).toNat).buf.length + 31) busy.design.bufCap = true ∧
    (data1.chan (1#6).toNat).state = .opened ∧ fitsCapacity 31 data1.design.bufCap = true := by decide
theorem witness_ControlMessagesBecomeEvents : ctl.link = .up ∧ (ctl.chan 0).state = .opened ∧
    ((0xE1#8).getLsbD 0 = true ∧ (0x05#8).getLsbD 0 = true ∧ [0x07#8, 0x0D#8].length = (0x05#8).toNat / 2) ∧
    ((0x02#8).getLsbD 0 = false ∧ [0x55#8].length = (0x02#8).toNat / 2 + 128 * (0x00#8).toNat) := by decide
/-- The third clause of ControlMessagesBecomeEvents: DP6 row 4, a message of one byte. -/
theorem witness_ControlMessagesBecomeEvents_malformed (t l0 : Byte) (value : List Byte) :
    ([0xE1#8] : List Byte) ≠ t :: l0 :: value := by simp
theorem witness_UnansweredOpenFailsAtTheThirdTimeout :
    let s := withChannels [opened, opening 1];
    s.tableComplete ∧ (1#6 : Dlci) ≠ 0 ∧ (1#6).toNat ≤ s.cfg.nch ∧ s.evqFull = false ∧
    s.chan (1#6).toNat = { s.chan (1#6).toNat with state := .opening, att := 1, tmr := true } := by decide +kernel
theorem witness_UaAndTimeoutInEitherOrder : ∀ att ∈ [(1 : BitVec 2), 3],
    let s := withChannels [opened, opening att];
    s.tableComplete ∧ s.link = .up ∧ (1#6 : Dlci) ≠ 0 ∧ (1#6).toNat ≤ s.cfg.nch ∧
    (s.chan (1#6).toNat).state = .opening ∧ (s.chan (1#6).toNat).tmr = true := by decide +kernel

end Sys2Proof.Tests
end

/-! Which operation a step runs: fetching takes the first pending input and decodes it (20_memory.md R52). -/

namespace Sys2Proof.Machine

/-- An input whose bits decode is fetched as the instruction they stand for, and is taken off the list. -/
theorem State.fetch_of_decode {s : State} {e : Input} {rest : List Input} {bits : Encoded} {i : Instr}
    (hpending : s.pending = e :: rest) (hbits : e.encoded = some bits) (hdecode : decode bits = .ok i) :
    s.fetch = .run i { s with pending := rest } := by
  simp only [State.fetch, hpending, hbits, hdecode]

/-- A step runs what it has fetched. -/
theorem step_of_fetch_run {s t : State} {i : Instr} (hfetch : s.fetch = .run i t) : step s = exec i t := by
  simp only [step, hfetch]

/-- Settles O18: the fetch gives the decoded instruction and the state without its input, and the step runs it. -/
theorem stepRunsTheDecodedInput : Obligations.StepRunsTheDecodedInput := by
  intro s e rest bits i hpending hbits hdecode
  have hfetch : s.fetch = .run i { s with pending := rest } := State.fetch_of_decode hpending hbits hdecode
  exact step_of_fetch_run hfetch

end Sys2Proof.Machine

/-! What an operation does, said once: `exec_effect` gives for each instruction the states it can answer. Later proofs
take an instruction apart by these cases and do not unfold its meaning. -/

namespace Sys2Proof.Machine

/-- LINKDOWN's channels lost, the control channel last (43_mux_control.md R175). -/
abbrev State.linkLost (s : State) : State :=
  s.controlChannelLast.foldl State.loseChannel { s with link := .down, writing := false }

/-- A lost link leaves everything but LINK, the channels, the events and the ownership of the stream. -/
theorem State.linkLost_frame (s : State) :
    OnlyChannelsAndEvents { s with link := .down, writing := false } s.linkLost :=
  State.loseChannels_frame _ _

/-- TEARDOWN's channels torn down, the control channel last (43_mux_control.md R176). -/
abbrev State.tornDown (s : State) : State :=
  { s.controlChannelLast.foldl State.tearChannel s with link := .dead, writing := false }

/-- What a command, a register read, EVPOP or RESET does: it only answers, or it passes its checks and acts
(43_mux_control.md R171 to R176, 44_data_path.md R210 to R216, 70_reset_and_hazards.md R270). -/
inductive CommandEffect (s : State) : Instr → State → Prop
  | answered (i : Instr) (r : Reply) : CommandEffect s i (s.withReply r)
  | started (data : List Byte) (hup : s.link = .up) (hclosed : (s.chan 0).state = .closed) :
    CommandEffect s (.start 0 0 data)
      ((({ s with role := .initiator }.setChan 0 (openingChannel (s.chan 0))).sendSabm 0).answer .ok .nothing)
  | allocated (data : List Byte) (e : Nat) (hup : s.link = .up) (hcontrol : (s.chan 0).state = .opened)
      (hlowest : s.lowestClosed = some e) :
    CommandEffect s (.openCh 0 0 data)
      (((s.setChan e (emptiedChannel (openingChannel (s.chan e)))).sendSabm e).answer .ok (.dlci (BitVec.ofNat 6 e)))
  | closing (d : Dlci) (data : List Byte) (hup : s.link = .up) (hserved : d.toNat ≤ s.cfg.nch)
      (hopened : (s.chan d.toNat).state = .opened) (hlast : d = 0 → s.logicalAllClosed = true) :
    CommandEffect s (.closeCh d 0 data)
      (((s.setChan d.toNat (closingChannel (s.chan d.toNat))).sendDisc d.toNat).answer .ok .nothing)
  | timedOut (d : Dlci) (data : List Byte) (hserved : d.toNat ≤ s.cfg.nch) :
    CommandEffect s (.timeout d 0 data) ((s.timerExpired d.toNat).answer .ok .nothing)
  | linkLost (data : List Byte) (hup : s.link = .up) :
    CommandEffect s (.linkdown 0 0 data)
      (s.linkLost.decoderReset.answer .ok .nothing)
  | tornDown (data : List Byte) (hup : s.link = .up) :
    CommandEffect s (.teardown 0 0 data)
      (s.tornDown.decoderReset.answer .ok .nothing)
  | wrote (d : Dlci) (data : List Byte) (hup : s.link = .up) :
    CommandEffect s (.write d 0 data) ((s.sendPieces d.toNat data).answer .ok .nothing)
  | read (d : Dlci) (n : Arg) (data : List Byte) (k : Nat) (v : ReturnValue) (hlogical : 1 ≤ d.toNat)
      (hserved : d.toNat ≤ s.cfg.nch) :
    CommandEffect s (.read d n data)
      ((s.setChan d.toNat { s.chan d.toNat with buf := (s.chan d.toNat).buf.drop k }).answer .ok v)
  | sentControl (data p : List Byte) (hup : s.link = .up) :
    CommandEffect s (.txctrl 0 0 data) ((s.sendUih 0 p).answer .ok .nothing)
  | cleared (data : List Byte) : CommandEffect s (.clrstat 0 0 data) (s.clearStatistics.answer .ok .nothing)
  | popped (r : EventRecord) (rest : List EventRecord) (hevq : s.evq = r :: rest) :
    CommandEffect s .evPop ({ s with evq := rest }.withReply (.event true r))
  | resetDone (hrange : configInRange s.design s.pins = true) : CommandEffect s .reset s.afterReset

/-- What a received frame does: it is ignored, or it is a frame error, or GoodFrame and the frame's own rule run
(42_decoder.md R130, R147 to R152). -/
inductive FrameEffect (s : State) : Instr → State → Prop
  | ignored (f : Instr) (hdown : s.link ≠ .up) : FrameEffect s f (s.withReply .nothing)
  | failed (f : Instr) (k : FrameErrorKind) (hup : s.link = .up) : FrameEffect s f ((s.frameError k).withReply .nothing)
  | sabm (d : Dlci) (cr pf : Bool) (hup : s.link = .up) (hserved : d.toNat ≤ s.cfg.nch) :
    FrameEffect s (.rxSabm d cr pf []) ((s.goodFrame.rxSabmRule d.toNat pf).withReply .nothing)
  | ua (d : Dlci) (cr pf : Bool) (hup : s.link = .up) (hserved : d.toNat ≤ s.cfg.nch) :
    FrameEffect s (.rxUa d cr pf []) ((s.goodFrame.rxUaRule d.toNat).withReply .nothing)
  | dm (d : Dlci) (cr pf : Bool) (hup : s.link = .up) (hserved : d.toNat ≤ s.cfg.nch) :
    FrameEffect s (.rxDm d cr pf []) ((s.goodFrame.rxDmRule d.toNat).withReply .nothing)
  | disc (d : Dlci) (cr pf : Bool) (hup : s.link = .up) (hserved : d.toNat ≤ s.cfg.nch) :
    FrameEffect s (.rxDisc d cr pf []) ((s.goodFrame.rxDiscRule d.toNat pf).withReply .nothing)
  | data (f : Instr) (d : Dlci) (p : List Byte) (hf : ∃ cr pf, f = .rxUih d cr pf p ∨ f = .rxUi d cr pf p)
      (hup : s.link = .up) (hserved : d.toNat ≤ s.cfg.nch) :
    FrameEffect s f ((s.goodFrame.rxDataRule d.toNat p).withReply .nothing)

/-- What any instruction does. A received byte moves the decoder, or is one frame error, or completes a frame and does
what that frame does. -/
inductive Effect (s : State) : Instr → State → Prop
  | command {i : Instr} {t : State} (h : CommandEffect s i t) : Effect s i t
  | frame {f : Instr} {t : State} (h : FrameEffect s f t) : Effect s f t
  | listened {t : State} (b : Byte) (h : s.onlyListens t) : Effect s (.rxByte b) t
  | erred {t : State} (b : Byte) (h : s.onlyErrs t) : Effect s (.rxByte b) t
  | completed {t : State} (b : Byte) (f : Instr) (dec : Decoder) (hc : s.completes (.rxByte b) f)
      (h : FrameEffect { s with dec := dec, reply := .nothing } f t) : Effect s (.rxByte b) t

/-! ### Commands -/

theorem CommandEffect.answer (s : State) (i : Instr) (st : Status) (v : ReturnValue) :
    CommandEffect s i (s.answer st v) := .answered i (.command st v)

/-- The must-be-zero fields of a command that passed its first check. -/
theorem operands_eq_zero {d : Dlci} {n : Arg} (h : ¬ noOperands d n = false) : d = 0 ∧ n = 0 :=
  (noOperands_iff d n).mp (Bool.not_eq_false _ ▸ h)

theorem argument_eq_zero {n : Arg} (h : ¬ noArgument n = false) : n = 0 :=
  (noArgument_iff n).mp (Bool.not_eq_false _ ▸ h)

theorem State.served_of_check {s : State} {d : Dlci} (h : ¬ s.servesChannel d = false) : d.toNat ≤ s.cfg.nch :=
  (s.servesChannel_iff d).mp (Bool.not_eq_false _ ▸ h)

theorem execStart_effect {d : Dlci} {n : Arg} {x : List Byte} {s t : State} (h : execStart d n x s = .next t) :
    CommandEffect s (.start d n x) t := by
  unfold execStart at h
  split at h
  · cases h; exact .answer ..
  next hops =>
  split at h
  · cases h; exact .answer ..
  next hup =>
  split at h
  · cases h; exact .answer ..
  next hclosed =>
  cases h
  obtain ⟨rfl, rfl⟩ := operands_eq_zero hops
  exact .started x (not_not.mp hup) (not_not.mp hclosed)

theorem execOpen_effect {d : Dlci} {n : Arg} {x : List Byte} {s t : State} (h : execOpen d n x s = .next t) :
    CommandEffect s (.openCh d n x) t := by
  unfold execOpen at h
  split at h
  · cases h; exact .answer ..
  next hops =>
  split at h
  · cases h; exact .answer ..
  next hup =>
  split at h
  · cases h; exact .answer ..
  next hcontrol =>
  split at h
  · cases h; exact .answer ..
  next e hlowest =>
  cases h
  obtain ⟨rfl, rfl⟩ := operands_eq_zero hops
  exact .allocated x e (not_not.mp hup) (not_not.mp hcontrol) hlowest

theorem execClose_effect {d : Dlci} {n : Arg} {x : List Byte} {s t : State} (h : execClose d n x s = .next t) :
    CommandEffect s (.closeCh d n x) t := by
  unfold execClose at h
  split at h
  · cases h; exact .answer ..
  next harg =>
  split at h
  · cases h; exact .answer ..
  next hdead =>
  split at h
  · cases h; exact .answer ..
  next hserved =>
  split at h
  · cases h; exact .answer ..
  next hdown =>
  split at h
  · cases h; exact .answer ..
  next hopened =>
  split at h
  · cases h; exact .answer ..
  next hlast =>
  cases h
  obtain rfl := argument_eq_zero harg
  have hup : s.link = .up := by
    cases hl : s.link with
    | up => rfl
    | down => exact absurd hl hdown
    | dead => exact absurd hl hdead
  exact .closing d x hup (State.served_of_check hserved) (not_not.mp hopened) (fun hd => by simpa [hd] using hlast)

theorem execTimeout_effect {d : Dlci} {n : Arg} {x : List Byte} {s t : State} (h : execTimeout d n x s = .next t) :
    CommandEffect s (.timeout d n x) t := by
  unfold execTimeout at h
  split at h
  · cases h; exact .answer ..
  next harg =>
  split at h
  · cases h; exact .answer ..
  next hserved =>
  cases h
  obtain rfl := argument_eq_zero harg
  exact .timedOut d x (State.served_of_check hserved)

theorem execLinkdown_effect {d : Dlci} {n : Arg} {x : List Byte} {s t : State} (h : execLinkdown d n x s = .next t) :
    CommandEffect s (.linkdown d n x) t := by
  unfold execLinkdown at h
  split at h
  · cases h; exact .answer ..
  next hops =>
  split at h
  · cases h; exact .answer ..
  next hup =>
  cases h
  obtain ⟨rfl, rfl⟩ := operands_eq_zero hops
  exact .linkLost x (not_not.mp hup)

theorem execTeardown_effect {d : Dlci} {n : Arg} {x : List Byte} {s t : State} (h : execTeardown d n x s = .next t) :
    CommandEffect s (.teardown d n x) t := by
  unfold execTeardown at h
  split at h
  · cases h; exact .answer ..
  next hops =>
  split at h
  · cases h; exact .answer ..
  next hup =>
  cases h
  obtain ⟨rfl, rfl⟩ := operands_eq_zero hops
  exact .tornDown x (not_not.mp hup)

theorem execWrite_effect {d : Dlci} {n : Arg} {x : List Byte} {s t : State} (h : execWrite d n x s = .next t) :
    CommandEffect s (.write d n x) t := by
  unfold execWrite at h
  split at h
  · cases h; exact .answer ..
  next harg =>
  split at h
  · cases h; exact .answer ..
  next hup =>
  split at h
  · cases h; exact .answer ..
  split at h
  · cases h; exact .answer ..
  cases h
  obtain rfl := argument_eq_zero harg
  exact .wrote d x (not_not.mp hup)

theorem execRead_effect {d : Dlci} {n : Arg} {x : List Byte} {s t : State} (h : execRead d n x s = .next t) :
    CommandEffect s (.read d n x) t := by
  unfold execRead at h
  split at h
  · cases h; exact .answer ..
  split at h
  · cases h; exact .answer ..
  next hlogical =>
  cases h
  obtain ⟨hpos, hserved⟩ := (s.isLogicalChannel_iff d).mp (Bool.not_eq_false _ ▸ hlogical)
  exact .read d n x _ _ hpos hserved

theorem execTxctrl_effect {d : Dlci} {n : Arg} {x : List Byte} {s t : State} (h : execTxctrl d n x s = .next t) :
    CommandEffect s (.txctrl d n x) t := by
  unfold execTxctrl at h
  split at h
  · cases h; exact .answer ..
  next hops =>
  split at h
  · cases h; exact .answer ..
  split at h
  · cases h; exact .answer ..
  next hup =>
  split at h
  · cases h; exact .answer ..
  split at h
  · cases h; exact .answer ..
  cases h
  obtain ⟨rfl, rfl⟩ := operands_eq_zero hops
  exact .sentControl x _ (not_not.mp hup)

theorem execClrstat_effect {d : Dlci} {n : Arg} {x : List Byte} {s t : State} (h : execClrstat d n x s = .next t) :
    CommandEffect s (.clrstat d n x) t := by
  unfold execClrstat at h
  split at h
  · cases h; exact .answer ..
  next hops =>
  cases h
  obtain ⟨rfl, rfl⟩ := operands_eq_zero hops
  exact .cleared x

theorem execNop_effect {d : Dlci} {n : Arg} {x : List Byte} {s t : State} (h : execNop d n x s = .next t) :
    CommandEffect s (.nop d n x) t := by
  unfold execNop at h
  split at h <;> cases h <;> exact .answer ..

theorem execEvPop_effect {s t : State} (h : execEvPop s = .next t) : CommandEffect s .evPop t := by
  unfold execEvPop at h
  split at h
  · cases h; exact .answered ..
  next r rest hevq => cases h; exact .popped r rest hevq

theorem execReset_effect {s t : State} (h : execReset s = .next t) : CommandEffect s .reset t := by
  unfold execReset at h
  split at h
  next hrange => cases h; exact .resetDone hrange
  · cases h

/-! ### Received frames and bytes -/

/-- The checks of R152 before a frame's rule, for a frame whose rule has an effect of its own. -/
theorem State.receiveFrame_effect (s : State) (d : Dlci) (carries : Bool) (p : List Byte) (rule : State → State)
    (f : Instr)
    (hrule : s.link = .up → d.toNat ≤ s.cfg.nch → (carries = false → p = []) →
      FrameEffect s f ((rule s.goodFrame).withReply .nothing)) :
    FrameEffect s f ((s.receiveFrame d carries p rule).withReply .nothing) := by
  rcases s.receiveFrame_cases d carries p rule with
    ⟨hdown, h⟩ | ⟨hup, _, h⟩ | ⟨hup, _, _, _, h⟩ | ⟨hup, hserved, hp, h⟩ <;> rw [h]
  · exact .ignored f hdown
  · exact .failed f _ hup
  · exact .failed f _ hup
  · exact hrule hup hserved hp

theorem execRxSabm_effect {d : Dlci} {cr pf : Bool} {p : List Byte} {s t : State}
    (h : execRxSabm d cr pf p s = .next t) : FrameEffect s (.rxSabm d cr pf p) t := by
  cases h
  refine s.receiveFrame_effect d _ p _ _ fun hup hserved hp => ?_
  obtain rfl := hp rfl
  exact .sabm d cr pf hup hserved

theorem execRxUa_effect {d : Dlci} {cr pf : Bool} {p : List Byte} {s t : State}
    (h : execRxUa d cr pf p s = .next t) : FrameEffect s (.rxUa d cr pf p) t := by
  cases h
  refine s.receiveFrame_effect d _ p _ _ fun hup hserved hp => ?_
  obtain rfl := hp rfl
  exact .ua d cr pf hup hserved

theorem execRxDm_effect {d : Dlci} {cr pf : Bool} {p : List Byte} {s t : State}
    (h : execRxDm d cr pf p s = .next t) : FrameEffect s (.rxDm d cr pf p) t := by
  cases h
  refine s.receiveFrame_effect d _ p _ _ fun hup hserved hp => ?_
  obtain rfl := hp rfl
  exact .dm d cr pf hup hserved

theorem execRxDisc_effect {d : Dlci} {cr pf : Bool} {p : List Byte} {s t : State}
    (h : execRxDisc d cr pf p s = .next t) : FrameEffect s (.rxDisc d cr pf p) t := by
  cases h
  refine s.receiveFrame_effect d _ p _ _ fun hup hserved hp => ?_
  obtain rfl := hp rfl
  exact .disc d cr pf hup hserved

theorem execRxUih_effect {d : Dlci} {cr pf : Bool} {p : List Byte} {s t : State}
    (h : execRxUih d cr pf p s = .next t) : FrameEffect s (.rxUih d cr pf p) t := by
  cases h
  exact s.receiveFrame_effect d _ p _ _ fun hup hserved _ => .data _ d p ⟨cr, pf, .inl rfl⟩ hup hserved

theorem execRxUi_effect {d : Dlci} {cr pf : Bool} {p : List Byte} {s t : State}
    (h : execRxUi d cr pf p s = .next t) : FrameEffect s (.rxUi d cr pf p) t := by
  cases h
  exact s.receiveFrame_effect d _ p _ _ fun hup hserved _ => .data _ d p ⟨cr, pf, .inr rfl⟩ hup hserved

theorem execRxReserved_effect {d : Dlci} {cr : Bool} {c : Byte} {p : List Byte} {s t : State}
    (h : execRxReserved d cr c p s = .next t) : FrameEffect s (.rxReserved d cr c p) t := by
  cases h
  split
  next hdown => exact .ignored _ hdown
  next hup => exact .failed _ _ (not_not.mp hup)

/-- The frame that a good body selects by its control byte (42_decoder.md R152). -/
theorem decodeFrame_effect {a c : Byte} {p : List Byte} {s t : State} (h : exec (decodeFrame a c p) s = .next t) :
    FrameEffect s (decodeFrame a c p) t := by
  revert h
  unfold decodeFrame
  cases frameTypeOf c with
  | sabm => exact execRxSabm_effect
  | ua => exact execRxUa_effect
  | dm => exact execRxDm_effect
  | disc => exact execRxDisc_effect
  | uih => exact execRxUih_effect
  | ui => exact execRxUi_effect
  | reserved => exact execRxReserved_effect

theorem execRxByte_effect {b : Byte} {s t : State} (h : execRxByte b s = .next t) : Effect s (.rxByte b) t := by
  rcases execRxByte_cases b s t h with hl | he | ⟨rfl, hd, a, c, p, dec, hx⟩
  · exact .listened b hl
  · exact .erred b he
  · exact .completed _ _ dec (.inr ⟨rfl, hd, dec, hx⟩) (decodeFrame_effect (hx.symm.trans h))

/-- Everything an operation can do. -/
theorem exec_effect {i : Instr} {s t : State} (h : exec i s = .next t) : Effect s i t := by
  cases i with
  | nop d n x => exact .command (execNop_effect h)
  | start d n x => exact .command (execStart_effect h)
  | openCh d n x => exact .command (execOpen_effect h)
  | closeCh d n x => exact .command (execClose_effect h)
  | write d n x => exact .command (execWrite_effect h)
  | read d n x => exact .command (execRead_effect h)
  | txctrl d n x => exact .command (execTxctrl_effect h)
  | teardown d n x => exact .command (execTeardown_effect h)
  | timeout d n x => exact .command (execTimeout_effect h)
  | linkdown d n x => exact .command (execLinkdown_effect h)
  | clrstat d n x => exact .command (execClrstat_effect h)
  | reservedB d n x => cases h; exact .command (.answer ..)
  | reservedC d n x => cases h; exact .command (.answer ..)
  | reservedD d n x => cases h; exact .command (.answer ..)
  | reservedE d n x => cases h; exact .command (.answer ..)
  | reservedF d n x => cases h; exact .command (.answer ..)
  | rxByte b => exact execRxByte_effect h
  | regRead a => cases h; exact .command (.answered ..)
  | evPop => exact .command (execEvPop_effect h)
  | reset => exact .command (execReset_effect h)
  | rxSabm d cr pf p => exact .frame (execRxSabm_effect h)
  | rxUa d cr pf p => exact .frame (execRxUa_effect h)
  | rxDm d cr pf p => exact .frame (execRxDm_effect h)
  | rxDisc d cr pf p => exact .frame (execRxDisc_effect h)
  | rxUih d cr pf p => exact .frame (execRxUih_effect h)
  | rxUi d cr pf p => exact .frame (execRxUi_effect h)
  | rxReserved d cr c p => exact .frame (execRxReserved_effect h)

end Sys2Proof.Machine

/-! Properties that the shared operations keep, and with them every operation: each is proved once for a move
(`Move`), and EVPOP, CLRSTAT and RESET are looked at apart. -/

namespace Sys2Proof.Machine

/-- A property that a run of moves, EVPOP, CLRSTAT and RESET keep is kept by every operation. -/
theorem exec_keeps (P : State → Prop) (hmove : ∀ s t, P s → Move s t → P t)
    (hpop : ∀ s r rest, s.evq = r :: rest → P s → P { s with evq := rest }) (hclear : ∀ s, P s → P s.clearStatistics)
    (hreset : ∀ s, configInRange s.design s.pins = true → P s → P s.afterReset) {i : Instr} {s t : State} (hs : P s)
    (h : exec i s = .next t) : P t := by
  have hreply : ∀ (u : State) (r : Reply), P u → P (u.withReply r) := fun u r hu => hmove u _ hu (.reply r)
  have hmoves : Moves s t → P t := fun hm =>
    Moves.rel (fun a b => P a → P b) (fun _ => id) (fun _ _ _ hab hbc => hbc ∘ hab) (fun a b hab ha => hmove a b ha hab)
      hm hs
  cases i
  case evPop =>
    cases execEvPop_effect h with
    | answered _ r => exact hreply s r hs
    | popped r rest hevq => exact hreply _ _ (hpop s r rest hevq hs)
  case clrstat d n data =>
    cases execClrstat_effect (x := data) h with
    | answered _ r => exact hreply s r hs
    | cleared => exact hreply _ _ (hclear s hs)
  case reset =>
    cases execReset_effect h with
    | answered _ r => exact hreply s r hs
    | resetDone hrange => exact hreset s hrange hs
  all_goals exact hmoves (exec_moves _ s t h (by simp) (by simp) (by simp))

/-! ### The ranges of the parameters (00_scope.md R6 to R15) -/

/-- The bounds that a configuration in range gives. -/
theorem configInRange_bounds {design : Design} {c : Cfg} (h : configInRange design c = true) :
    1 ≤ c.nch ∧ c.nch ≤ 61 ∧ 1 ≤ c.maxLen ∧ c.maxLen ≤ 32767 ∧
      1 ≤ design.desyncThreshold ∧ design.desyncThreshold ≤ 65535 := by
  simp only [configInRange, Bool.and_eq_true, decide_eq_true_eq] at h
  omega

theorem exec_keeps_configured {i : Instr} {s t : State} (hs : s.configured) (h : exec i s = .next t) :
    t.configured := by
  refine exec_keeps State.configured ?_ (fun _ _ _ _ hs => hs) (fun _ hs => hs) (fun _ hrange _ => hrange) hs h
  intro s t hs hm
  obtain ⟨hdesign, _, hcfg, _⟩ := hm.fixed
  simpa only [State.configured, hdesign, hcfg] using hs

/-! ### Link health (10_state.md R28, R29) -/

/-- A frame error raises CONSEC_ERR by one at most, and sets DESYNC when it reaches the threshold. -/
theorem State.frameError_linkHealth {s : State} (hs : s.linkHealthConsistent) (k : FrameErrorKind) :
    (s.frameError k).linkHealthConsistent := by
  obtain ⟨hlow, hhigh, hiff⟩ := hs
  refine ⟨by simpa using hlow, by simpa using hhigh, ?_⟩
  have hsat := satInc_toNat s.consecErr
  simp only [State.frameError_desync, State.frameError_design, State.frameError_consecErr, State.desyncRises,
    Bool.or_eq_true, Bool.and_eq_true, decide_eq_true_eq, Bool.not_eq_true']
  cases hd : s.desync with
  | false => simp
  | true =>
    have hreached := hiff.mp hd
    simp only [true_or, true_iff]
    omega

/-- A state with no frame error counted and DESYNC clear. -/
theorem State.linkHealth_of_zero {s : State} (hlow : 1 ≤ s.design.desyncThreshold)
    (hhigh : s.design.desyncThreshold ≤ 65535) (hd : s.desync = false) (hc : s.consecErr = 0) :
    s.linkHealthConsistent := by
  have hzero : s.consecErr.toNat = 0 := by rw [hc]; rfl
  refine ⟨hlow, hhigh, ?_⟩
  simp only [hd, hzero, Bool.false_eq_true, false_iff]
  omega

theorem Move.keeps_linkHealth {s t : State} (hs : s.linkHealthConsistent) (hm : Move s t) : t.linkHealthConsistent := by
  cases hm with
  | error k => exact s.frameError_linkHealth hs k
  | good =>
    obtain ⟨hlow, hhigh, _⟩ := hs
    exact State.linkHealth_of_zero (by simpa using hlow) (by simpa using hhigh) s.goodFrame_desync s.goodFrame_consecErr
  | _ => exact hs

theorem exec_keeps_linkHealth {i : Instr} {s t : State} (hs : s.linkHealthConsistent) (h : exec i s = .next t) :
    t.linkHealthConsistent := by
  refine exec_keeps State.linkHealthConsistent (fun _ _ => Move.keeps_linkHealth) (fun _ _ _ _ hs => hs) ?_ ?_ hs h
  · exact fun s hs => State.linkHealth_of_zero hs.1 hs.2.1 rfl rfl
  · exact fun s _ hs => State.linkHealth_of_zero hs.1 hs.2.1 rfl rfl

/-! ### Capacities (20_memory.md R63) -/

theorem fitsCapacity_zero (cap : Option Nat) : fitsCapacity 0 cap = true := by
  cases cap <;> simp [fitsCapacity]

/-- A shorter sequence fits where a longer one does. -/
theorem fitsCapacity_mono {m n : Nat} {cap : Option Nat} (hmn : m ≤ n) (h : fitsCapacity n cap = true) :
    fitsCapacity m cap = true := by
  cases cap with
  | none => rfl
  | some k => simp only [fitsCapacity, decide_eq_true_eq] at h ⊢; omega

/-- Every channel that can be read holds a buffer within P_BUFCAP. -/
theorem State.withinCapacity.chan_fits {s : State} (hs : s.withinCapacity) (d : Nat) :
    fitsCapacity (s.chan d).buf.length s.design.bufCap = true := by
  rcases s.chan_mem d with h | h
  · exact hs.1 _ h
  · rw [h]; exact fitsCapacity_zero _

theorem State.event_evqFits {s : State} (hs : s.evqFits) (k : EventKind) (d : Nat) (a : Byte) (x : List Byte) :
    (s.event k d a x).evqFits := by
  rw [s.event_eq_raised hs]
  exact s.raised_evqFits _

theorem State.frameError_evqFits {s : State} (hs : s.evqFits) (k : FrameErrorKind) : (s.frameError k).evqFits := by
  unfold State.evqFits
  rw [(s.frameError_events hs k).1, State.frameError_design]
  exact s.raised_evqFits _

theorem State.goodFrame_evqFits {s : State} (hs : s.evqFits) : s.goodFrame.evqFits := by
  unfold State.evqFits
  rw [(s.goodFrame_events hs).1, State.goodFrame_design]
  exact s.raised_evqFits _

theorem Move.keeps_withinCapacity {s t : State} (hs : s.withinCapacity) (hm : Move s t) : t.withinCapacity := by
  obtain ⟨hbuf, hevq⟩ := hs
  cases hm with
  | event k d a x => exact ⟨hbuf, s.event_evqFits hevq k d a x⟩
  | error k => exact ⟨by simpa using hbuf, s.frameError_evqFits hevq k⟩
  | good => exact ⟨by simpa using hbuf, s.goodFrame_evqFits hevq⟩
  | chan d c _ hb =>
    refine ⟨fun c' hc' => ?_, hevq⟩
    rcases List.mem_or_eq_of_mem_set hc' with hc' | rfl
    · exact hbuf c' hc'
    · rcases hb with hb | hb
      · exact fitsCapacity_mono hb (State.withinCapacity.chan_fits ⟨hbuf, hevq⟩ d)
      · exact hb
  | _ => exact ⟨hbuf, hevq⟩

theorem State.clearStatistics_withinCapacity {s : State} (hs : s.withinCapacity) :
    s.clearStatistics.withinCapacity := by
  obtain ⟨hbuf, hevq⟩ := hs
  refine ⟨fun c hc => ?_, hevq⟩
  obtain ⟨c', hc', rfl⟩ := List.mem_map.mp hc
  exact hbuf c' hc'

theorem State.afterReset_withinCapacity (s : State) : s.afterReset.withinCapacity := by
  refine ⟨fun c hc => ?_, fitsCapacity_zero _⟩
  obtain rfl := List.eq_of_mem_replicate hc
  exact fitsCapacity_zero _

theorem exec_keeps_withinCapacity {i : Instr} {s t : State} (hs : s.withinCapacity) (h : exec i s = .next t) :
    t.withinCapacity := by
  refine exec_keeps State.withinCapacity (fun _ _ => Move.keeps_withinCapacity) ?_
    (fun _ => State.clearStatistics_withinCapacity) (fun s _ _ => s.afterReset_withinCapacity) hs h
  intro s r rest hevq hs
  refine ⟨hs.1, fitsCapacity_mono ?_ hs.2⟩
  simp [hevq]

/-! ### Event records (30_encoding.md R89, R90) -/

/-- A record that an operation raises for a served channel. -/
theorem eventRecord_legal {c : Cfg} {k : EventKind} {d : Nat} {a : Byte} {x : List Byte} (hd : d ≤ c.nch)
    (hx : k ≠ .ctrlRx → x = []) : recordLegal c (eventRecord k d a x) := by
  have hdlci : (BitVec.ofNat 6 d).toNat ≤ c.nch := le_trans (by simpa using Nat.mod_le d _) hd
  have hkind : 1 ≤ (eventKindCode k).toNat ∧ (eventKindCode k).toNat ≤ 10 := by cases k <;> decide
  refine ⟨hkind.1, hkind.2, hdlci, fun hne => hx ?_⟩
  rintro rfl
  exact hne rfl

theorem State.event_eventsLegal {s : State} (hs : s.eventsLegal) {k : EventKind} {d : Nat} {a : Byte} {x : List Byte}
    (hd : d ≤ s.cfg.nch) (hx : k ≠ .ctrlRx → x = []) : (s.event k d a x).eventsLegal := by
  intro r hr
  rw [State.event_evq] at hr
  split at hr
  · exact hs r hr
  · rcases List.mem_append.mp hr with hr | hr
    · exact hs r hr
    · obtain rfl := List.mem_singleton.mp hr
      exact eventRecord_legal hd hx

theorem State.frameError_eventsLegal {s : State} (hs : s.eventsLegal) (k : FrameErrorKind) :
    (s.frameError k).eventsLegal := by
  simp only [State.frameError]
  split
  · exact State.event_eventsLegal hs (Nat.zero_le _) (fun _ => rfl)
  · exact hs

theorem State.goodFrame_eventsLegal {s : State} (hs : s.eventsLegal) : s.goodFrame.eventsLegal := by
  simp only [State.goodFrame]
  split
  · exact State.event_eventsLegal hs (Nat.zero_le _) (fun _ => rfl)
  · exact hs

theorem Move.keeps_eventsLegal {s t : State} (hs : s.eventsLegal) (hm : Move s t) : t.eventsLegal := by
  cases hm with
  | event k d a x hd hx => exact State.event_eventsLegal hs hd hx
  | error k => exact s.frameError_eventsLegal hs k
  | good => exact s.goodFrame_eventsLegal hs
  | _ => exact hs

theorem exec_keeps_eventsLegal {i : Instr} {s t : State} (hs : s.eventsLegal) (h : exec i s = .next t) :
    t.eventsLegal := by
  refine exec_keeps State.eventsLegal (fun _ _ => Move.keeps_eventsLegal) ?_ (fun _ hs => hs) ?_ hs h
  · intro s r rest hevq hs r' hr'
    exact hs r' (hevq ▸ List.mem_cons_of_mem r hr')
  · intro s _ _ r hr
    exact absurd hr List.not_mem_nil

/-! ### Obligations about capacities and link health -/

/-- Settles O13: only a frame error raises CONSEC_ERR, and it sets DESYNC as the threshold is reached. -/
theorem everyStepKeepsLinkHealthConsistent : Obligations.EveryStepKeepsLinkHealthConsistent := by
  intro s t hs hstep
  exact step_keeps State.linkHealthConsistent (fun _ _ _ h => h) (fun _ _ _ => exec_keeps_linkHealth) s t hs hstep

/-- Settles O14: an event that does not fit is discarded, and a channel is only written with a buffer that fits. -/
theorem everyStepKeepsWithinCapacity : Obligations.EveryStepKeepsWithinCapacity := by
  intro s t hs hstep
  exact step_keeps State.withinCapacity (fun _ _ _ h => h) (fun _ _ _ => exec_keeps_withinCapacity) s t hs hstep

/-! ### What an operation never lowers, removes or rewrites -/

/-- A relation that every move meets holds of every operation but EVPOP, CLRSTAT and RESET. -/
theorem exec_rel (R : State → State → Prop) (hrefl : ∀ s, R s s) (htrans : ∀ a b c, R a b → R b c → R a c)
    (hmove : ∀ s t, Move s t → R s t) {i : Instr} {s t : State} (h : exec i s = .next t) (hpop : i ≠ .evPop)
    (hclear : ∀ d n data, i ≠ .clrstat d n data) (hreset : i ≠ .reset) : R s t :=
  Moves.rel R hrefl htrans hmove (exec_moves i s t h hpop hclear hreset)

theorem Move.evq_prefix {s t : State} (hm : Move s t) : s.evq <+: t.evq := by
  cases hm with
  | event k d a x => exact s.event_evq_prefix k d a x
  | error k => exact s.frameError_evq_prefix k
  | good => exact s.goodFrame_evq_prefix
  | _ => exact List.prefix_rfl

/-- Settles O25: every move keeps the queued events in front, and CLRSTAT does not touch them. -/
theorem eventsAreOnlyAppended : Obligations.EventsAreOnlyAppended := by
  intro i s t h hpop hreset
  by_cases hclear : ∃ d n data, i = .clrstat d n data
  · obtain ⟨d, n, data, rfl⟩ := hclear
    cases execClrstat_effect (x := data) h <;> exact List.prefix_rfl
  · push Not at hclear
    exact exec_rel (fun a b => a.evq <+: b.evq) (fun _ => List.prefix_rfl) (fun _ _ _ => List.IsPrefix.trans)
      (fun _ _ => Move.evq_prefix) h hpop hclear hreset

/-- No counter of 10_state.md R27 is lower in `t` than in `s`, and EVOVF is not cleared. -/
structure State.CountsUpTo (s t : State) : Prop where
  fcsErr : s.fcsErrCnt ≤ t.fcsErrCnt
  frameErr : s.frameErrCnt ≤ t.frameErrCnt
  desyncByte : s.desyncByteCnt ≤ t.desyncByteCnt
  rxFrame : s.rxFrameCnt ≤ t.rxFrameCnt
  drop : s.dropCnt ≤ t.dropCnt
  txFrame : s.txFrameCnt ≤ t.txFrameCnt
  evOvf : s.evOvf = true → t.evOvf = true

theorem State.CountsUpTo.refl (s : State) : s.CountsUpTo s :=
  ⟨BitVec.le_refl _, BitVec.le_refl _, BitVec.le_refl _, BitVec.le_refl _, BitVec.le_refl _, BitVec.le_refl _, id⟩

theorem State.CountsUpTo.trans {a b c : State} (h : a.CountsUpTo b) (h' : b.CountsUpTo c) : a.CountsUpTo c where
  fcsErr := BitVec.le_trans h.fcsErr h'.fcsErr
  frameErr := BitVec.le_trans h.frameErr h'.frameErr
  desyncByte := BitVec.le_trans h.desyncByte h'.desyncByte
  rxFrame := BitVec.le_trans h.rxFrame h'.rxFrame
  drop := BitVec.le_trans h.drop h'.drop
  txFrame := BitVec.le_trans h.txFrame h'.txFrame
  evOvf := h'.evOvf ∘ h.evOvf

theorem State.event_countsUpTo (s : State) (k : EventKind) (d : Nat) (a : Byte) (x : List Byte) :
    s.CountsUpTo (s.event k d a x) where
  __ := State.CountsUpTo.refl s
  evOvf h := by simp [h]

theorem State.frameError_countsUpTo (s : State) (k : FrameErrorKind) : s.CountsUpTo (s.frameError k) := by
  have hcount : s.CountsUpTo { s with
      fcsErrCnt := if k = .fcs then satInc s.fcsErrCnt else s.fcsErrCnt
      frameErrCnt := if k = .fcs then s.frameErrCnt else satInc s.frameErrCnt
      consecErr := satInc s.consecErr
      desync := s.desync || s.desyncRises (satInc s.consecErr) } :=
    { State.CountsUpTo.refl s with
      fcsErr := by dsimp only; split <;> [exact le_satInc _; exact BitVec.le_refl _]
      frameErr := by dsimp only; split <;> [exact BitVec.le_refl _; exact le_satInc _] }
  simp only [State.frameError]
  split
  · exact hcount.trans (State.event_countsUpTo ..)
  · exact hcount

theorem State.goodFrame_countsUpTo (s : State) : s.CountsUpTo s.goodFrame := by
  have hcount : s.CountsUpTo { s with rxFrameCnt := satInc s.rxFrameCnt, consecErr := 0, desync := false } :=
    { State.CountsUpTo.refl s with rxFrame := le_satInc _ }
  simp only [State.goodFrame]
  split
  · exact hcount.trans (State.event_countsUpTo ..)
  · exact hcount

theorem Move.countsUpTo {s t : State} (hm : Move s t) : s.CountsUpTo t := by
  cases hm with
  | event k d a x => exact s.event_countsUpTo k d a x
  | error k => exact s.frameError_countsUpTo k
  | good => exact s.goodFrame_countsUpTo
  | send d cr c p => exact { State.CountsUpTo.refl s with txFrame := le_satInc _ }
  | hunted => exact { State.CountsUpTo.refl s with desyncByte := le_satInc _ }
  | dropped => exact { State.CountsUpTo.refl s with drop := le_satInc _ }
  | badMessage => exact { State.CountsUpTo.refl s with frameErr := le_satInc _ }
  | _ => exact { State.CountsUpTo.refl s with }

/-- Settles O26: every move counts up or leaves a counter, and EVPOP changes only the queue. -/
theorem countersFallOnlyByClrstatAndReset : Obligations.CountersFallOnlyByClrstatAndReset := by
  intro i s t h hreset hclear
  have hcounts : s.CountsUpTo t := by
    by_cases hpop : i = .evPop
    · subst hpop
      cases execEvPop_effect h <;> exact { State.CountsUpTo.refl s with }
    · exact exec_rel State.CountsUpTo State.CountsUpTo.refl (fun _ _ _ => State.CountsUpTo.trans)
        (fun _ _ => Move.countsUpTo) h hpop hclear hreset
  exact ⟨hcounts.fcsErr, hcounts.frameErr, hcounts.desyncByte, hcounts.rxFrame, hcounts.drop, hcounts.txFrame,
    hcounts.evOvf⟩

/-! ### The transmit stream (20_memory.md R53, 41_encoder.md R116, R122) -/

/-- From `s` to `t` the transmit stream grows by these frames, and TX_FRAME_CNT counts each of them. -/
structure State.Sends (s t : State) (frames : List OutFrame) : Prop where
  cfg : t.cfg = s.cfg
  legal : ∀ f ∈ frames, f.legal s.cfg
  stream : t.tx = s.tx ++ (frames.map (OutFrame.bytes s.cfg)).flatten
  count : t.txFrameCnt = satInc^[frames.length] s.txFrameCnt

/-- A state that leaves the stream and its counter. -/
theorem State.Sends.nothing {s t : State} (hcfg : t.cfg = s.cfg) (htx : t.tx = s.tx)
    (hcount : t.txFrameCnt = s.txFrameCnt) : s.Sends t [] :=
  ⟨hcfg, by simp, by simpa using htx, hcount⟩

/-- What is sent one after the other is sent together. -/
theorem State.Sends.append {a b c : State} {fs gs : List OutFrame} (h : a.Sends b fs) (h' : b.Sends c gs) :
    a.Sends c (fs ++ gs) where
  cfg := h'.cfg.trans h.cfg
  legal f hf := (List.mem_append.mp hf).elim (h.legal f) (fun hg => h.cfg ▸ h'.legal f hg)
  stream := by rw [h'.stream, h.stream, h.cfg, List.map_append, List.flatten_append, List.append_assoc]
  count := by
    rw [h'.count, h.count, List.length_append, Nat.add_comm, Function.iterate_add_apply]

theorem State.sendFrame_sends (s : State) (d : Nat) (cr : Bool) (c : Byte) (p : List Byte)
    (h : OutFrame.legal s.cfg ⟨BitVec.ofNat 6 d, cr, c, p⟩) :
    s.Sends (s.sendFrame d cr c p) [⟨BitVec.ofNat 6 d, cr, c, p⟩] where
  cfg := rfl
  legal f hf := List.mem_singleton.mp hf ▸ h
  stream := by simp [OutFrame.bytes]
  count := rfl

theorem Move.sends {s t : State} (hm : Move s t) : ∃ frames, s.Sends t frames := by
  cases hm with
  | send d cr c p h => exact ⟨_, s.sendFrame_sends d cr c p h⟩
  | error k => exact ⟨[], .nothing (by simp) (by simp) (by simp)⟩
  | good => exact ⟨[], .nothing (by simp) (by simp) (by simp)⟩
  | _ => exact ⟨[], .nothing rfl rfl rfl⟩

/-- Settles O22: a move sends one frame or none. CLRSTAT and RESET clear the counter and send nothing. -/
theorem transmitStreamGrowsByWholeFrames : Obligations.TransmitStreamGrowsByWholeFrames := by
  intro i s t h
  by_cases hclears : i = .reset ∨ ∃ d n data, i = .clrstat d n data
  · refine ⟨[], by simp, ?_, ?_⟩
    · suffices t.tx = s.tx by simpa using this
      rcases hclears with rfl | ⟨d, n, data, rfl⟩
      · cases execReset_effect h <;> rfl
      · cases execClrstat_effect (x := data) h <;> rfl
    · rintro hreset hclear
      rcases hclears with rfl | ⟨d, n, data, rfl⟩
      · exact absurd rfl hreset
      · exact absurd rfl (hclear d n data)
  · push Not at hclears
    obtain ⟨hreset, hclear⟩ := hclears
    have hsends : ∃ frames, s.Sends t frames := by
      by_cases hpop : i = .evPop
      · subst hpop
        cases execEvPop_effect h <;> exact ⟨[], .nothing rfl rfl rfl⟩
      · exact exec_rel (fun a b => ∃ frames, a.Sends b frames) (fun _ => ⟨[], .nothing rfl rfl rfl⟩)
          (fun _ _ _ ⟨_, hfs⟩ ⟨_, hgs⟩ => ⟨_, hfs.append hgs⟩) (fun _ _ => Move.sends) h hpop hclear hreset
    obtain ⟨frames, hsent⟩ := hsends
    exact ⟨frames, hsent.legal, hsent.stream, fun _ _ => hsent.count⟩

end Sys2Proof.Machine

/-! REGREAD: the registers as sums of their fields, and the addresses of no register (10_state.md R42 to R44). -/

namespace Sys2Proof.Machine

/-- A register read answers the register's value and changes nothing else. -/
theorem exec_regRead (s : State) (a : Byte) :
    exec (.regRead a) s = .next { s with reply := .register (registerValue s a) } := rfl

/-- A register is determined by the sum of its fields. -/
theorem exec_regRead_of_toNat {s : State} {a : Byte} {n : Nat} (h : (registerValue s a).toNat = n) :
    exec (.regRead a) s = .next { s with reply := .register (BitVec.ofNat 32 n) } := by
  rw [exec_regRead, ← h, BitVec.ofNat_toNat, BitVec.setWidth_eq]

/-- A bit's place in a sum. -/
theorem mul_toNat_bool (n : Nat) (b : Bool) : n * b.toNat = if b then n else 0 := by
  cases b <;> simp

theorem modeCode_toNat (m : Mode) : (modeCode m).toNat = match m with | .basic => 0 | .advanced => 1 := by
  cases m <;> rfl

theorem advLenCode_toNat (a : AdvLen) : 2 * (advLenCode a).toNat = match a with | .present => 2 | .absent => 0 := by
  cases a <;> rfl

theorem linkCode_toNat (l : LinkState) : (linkCode l).toNat = match l with | .up => 0 | .down => 1 | .dead => 2 := by
  cases l <;> rfl

theorem roleCode_toNat (r : Role) : 4 * (roleCode r).toNat = match r with | .initiator => 0 | .responder => 4 := by
  cases r <;> rfl

theorem dstateCode_toNat (d : DState) :
    (dstateCode d).toNat = match d with
      | .hunt => 0 | .addr => 1 | .ctrl => 2 | .len1 => 3 | .len2 => 4 | .data => 5 | .fcs => 6 | .close => 7
      | .body => 8 | .esc => 9 := by
  cases d <;> rfl

theorem chStateCode_toNat (c : ChState) :
    (chStateCode c).toNat = match c with | .closed => 0 | .opening => 1 | .opened => 2 | .closing => 3 := by
  cases c <;> rfl

theorem State.mul_irq_toNat (s : State) : 32 * s.irq.toNat = if s.evq = [] then 0 else 32 := by
  unfold State.irq
  cases s.evq <;> rfl

/-- CFG by its fields (10_state.md R25). -/
theorem cfgRegister_fields (c : Cfg) (hnch : c.nch ≤ 63) (hmax : c.maxLen ≤ 32767) :
    (cfgRegister c).toNat =
      (match c.mode with | .basic => 0 | .advanced => 1) + (match c.advLen with | .present => 2 | .absent => 0) +
        (if c.server then 4 else 0) + 8 * c.nch + 65536 * c.maxLen := by
  rw [cfgRegister_toNat c hnch hmax, modeCode_toNat, advLenCode_toNat, mul_toNat_bool]

/-- STATUS by its fields (10_state.md R26). -/
theorem statusRegister_fields (s : State) :
    (statusRegister s).toNat =
      (match s.link with | .up => 0 | .down => 1 | .dead => 2) +
        (match s.role with | .initiator => 0 | .responder => 4) + (if s.desync then 8 else 0) +
        (if s.evOvf then 16 else 0) + (if s.evq = [] then 0 else 32) +
        256 * (match s.dec.dstate with
          | .hunt => 0 | .addr => 1 | .ctrl => 2 | .len1 => 3 | .len2 => 4 | .data => 5 | .fcs => 6 | .close => 7
          | .body => 8 | .esc => 9) := by
  rw [statusRegister_toNat, linkCode_toNat, roleCode_toNat, mul_toNat_bool, mul_toNat_bool, State.mul_irq_toNat,
    dstateCode_toNat]

/-- CH[d] by its fields (10_state.md R43). -/
theorem channelRegister_fields (c : Channel) :
    (channelRegister c).toNat =
      (match c.state with | .closed => 0 | .opening => 1 | .opened => 2 | .closing => 3) + 4 * c.att.toNat +
        (if c.tmr then 16 else 0) + (if c.remote then 32 else 0) + (if c.ovf then 64 else 0) +
        65536 * min c.buf.length 65535 := by
  rw [channelRegister_toNat, chStateCode_toNat, mul_toNat_bool, mul_toNat_bool, mul_toNat_bool]

/-- Settles O41: each register is the sum of its fields, which the layouts of the model put at these places. -/
theorem registerReadsReturnTheLayouts : Obligations.RegisterReadsReturnTheLayouts := by
  intro s hs
  obtain ⟨_, hnch, _, hmax, _, _⟩ := configInRange_bounds hs
  refine ⟨exec_regRead_of_toNat (cfgRegister_fields s.cfg (by omega) hmax),
    exec_regRead_of_toNat (statusRegister_fields s), ?_, exec_regRead_of_toNat (evcountRegister_toNat s), ?_⟩
  · intro a c hac
    refine exec_regRead_of_toNat ?_
    rw [← counterRegister_toNat c]
    simp only [List.mem_cons, Prod.mk.injEq, List.not_mem_nil, or_false] at hac
    rcases hac with ⟨rfl, rfl⟩ | ⟨rfl, rfl⟩ | ⟨rfl, rfl⟩ | ⟨rfl, rfl⟩ | ⟨rfl, rfl⟩ | ⟨rfl, rfl⟩ | ⟨rfl, rfl⟩ <;> rfl
  · intro d hd
    have hvalue := registerValue_channel s d hd (by omega)
    exact exec_regRead_of_toNat ((congrArg BitVec.toNat hvalue).trans (channelRegister_fields (s.chan d)))

/-- An address above EVCOUNT reads a channel of the table, or 0 (10_state.md R42, R44). -/
theorem registerValue_above (s : State) (a : Byte) (h : 0x0A ≤ a.toNat) :
    registerValue s a =
      if 0x40 ≤ a.toNat ∧ a.toNat ≤ 0x40 + s.cfg.nch then channelRegister (s.chan (a.toNat - 0x40)) else 0 := by
  unfold registerValue
  split
  case h_11 => rfl
  all_goals omega

/-- Settles O42: such an address is neither one of the first ten nor a channel's. -/
theorem unlistedAddressesReadZero : Obligations.UnlistedAddressesReadZero := by
  intro s a hlow hgap
  rw [exec_regRead, registerValue_above s a hlow, if_neg (by omega)]

end Sys2Proof.Machine

/-! LINK and the decoder: which operations move them, and how a received byte keeps the decoder within its mode and its
bounds (10_state.md R23, R38, R39). -/

namespace Sys2Proof.Machine

/-! ### LINK -/

/-- A received frame leaves the decoder and LINK. -/
theorem FrameEffect.kept {s t : State} {f : Instr} (h : FrameEffect s f t) : t.dec = s.dec ∧ t.link = s.link := by
  have good : ∀ {u : State}, u.dec = s.goodFrame.dec ∧ u.link = s.goodFrame.link → u.dec = s.dec ∧ u.link = s.link :=
    fun hu => ⟨hu.1.trans s.goodFrame_dec, hu.2.trans s.goodFrame_link⟩
  cases h with
  | ignored => exact ⟨rfl, rfl⟩
  | failed _ k => exact ⟨s.frameError_dec k, s.frameError_link k⟩
  | sabm d _ pf =>
    obtain ⟨hrule, _⟩ := s.goodFrame.rxRules_kept d.toNat pf []
    exact good hrule
  | ua d =>
    obtain ⟨_, ⟨hdec, hlink, _⟩, _⟩ := s.goodFrame.rxRules_kept d.toNat false []
    exact good ⟨hdec, hlink⟩
  | dm d =>
    obtain ⟨_, _, ⟨hdec, hlink, _⟩, _⟩ := s.goodFrame.rxRules_kept d.toNat false []
    exact good ⟨hdec, hlink⟩
  | disc d _ pf =>
    obtain ⟨_, _, _, ⟨hdec, hlink, _⟩, _⟩ := s.goodFrame.rxRules_kept d.toNat pf []
    exact good ⟨hdec, hlink⟩
  | data _ d p =>
    obtain ⟨_, _, _, _, hdec, hlink, _⟩ := s.goodFrame.rxRules_kept d.toNat false p
    exact good ⟨hdec, hlink⟩

/-- The three commands that may move LINK, and where each moves it (10_state.md R23). -/
theorem CommandEffect.link {s t : State} {i : Instr} (h : CommandEffect s i t) :
    t.link = s.link ∨ (i = .reset ∧ t.link = .up) ∨
      (s.link = .up ∧ ∃ data, i = .linkdown 0 0 data ∧ t.link = .down) ∨
      (s.link = .up ∧ ∃ data, i = .teardown 0 0 data ∧ t.link = .dead) := by
  cases h with
  | timedOut d => exact .inl (s.timerExpired_kept d.toNat).2.1
  | wrote d data => exact .inl (s.sendPieces_kept d.toNat data).2.1
  | linkLost data hup =>
    refine .inr (.inr (.inl ⟨hup, data, rfl, ?_⟩))
    simp only [State.answer_link, State.decoderReset_link]
    rw [s.linkLost_frame]
  | tornDown data hup => exact .inr (.inr (.inr ⟨hup, data, rfl, rfl⟩))
  | resetDone => exact .inr (.inl ⟨rfl, rfl⟩)
  | _ => exact .inl rfl

theorem Effect.link {s t : State} {i : Instr} (h : Effect s i t) :
    t.link = s.link ∨ (i = .reset ∧ t.link = .up) ∨
      (s.link = .up ∧ ∃ data, i = .linkdown 0 0 data ∧ t.link = .down) ∨
      (s.link = .up ∧ ∃ data, i = .teardown 0 0 data ∧ t.link = .dead) := by
  cases h with
  | command h => exact h.link
  | frame h => exact .inl h.kept.2
  | listened b h => rw [h.2]; exact .inl rfl
  | erred b h =>
    obtain ⟨k, h⟩ := h
    rw [h]
    exact .inl (s.frameError_link k)
  | completed b f dec hc h => exact .inl h.kept.2

/-- The parameters, the configuration inputs, the inputs to come and CFG, which only RESET writes (10_state.md R25). -/
theorem exec_fixed {i : Instr} {s t : State} (h : exec i s = .next t) :
    t.design = s.design ∧ t.pins = s.pins ∧ t.pending = s.pending ∧ (i ≠ .reset → t.cfg = s.cfg) := by
  have moved : ∀ p : Prop, Moves s t →
      t.design = s.design ∧ t.pins = s.pins ∧ t.pending = s.pending ∧ (p → t.cfg = s.cfg) := by
    intro p hmoves
    obtain ⟨hdesign, hpins, hcfg, hpending⟩ := hmoves.fixed
    exact ⟨hdesign, hpins, hpending, fun _ => hcfg⟩
  cases i
  case evPop => cases execEvPop_effect h <;> exact ⟨rfl, rfl, rfl, fun _ => rfl⟩
  case clrstat d n data => cases execClrstat_effect (x := data) h <;> exact ⟨rfl, rfl, rfl, fun _ => rfl⟩
  case reset => cases execReset_effect h <;> exact ⟨rfl, rfl, rfl, fun hne => absurd rfl hne⟩
  all_goals exact moved _ (exec_moves _ s t h (by simp) (by simp) (by simp))

/-- Settles O20: no move writes the parameters or CFG, and of all operations three move LINK. -/
theorem configurationAndLinkChangeOnlyByTheirRules : Obligations.ConfigurationAndLinkChangeOnlyByTheirRules := by
  intro i s t h
  obtain ⟨hdesign, hpins, hpending, hcfg⟩ := exec_fixed h
  exact ⟨hdesign, hpins, hpending, hcfg, fun hmoved => (exec_effect h).link.resolve_left hmoved⟩

/-! ### The decoder -/

/-- What the decoder invariant reads. -/
theorem State.decoderConsistent_congr {s t : State} (hcfg : t.cfg = s.cfg) (hdec : t.dec = s.dec)
    (hs : s.decoderConsistent) : t.decoderConsistent := by
  simpa only [State.decoderConsistent, hcfg, hdec] using hs

/-- Outside LEN2, DATA, FCS and CLOSE only the bounds of the holding registers count (10_state.md R39). -/
theorem State.decoderConsistent_of_bounds {s : State} (hmode : dstateOfMode s.cfg.mode s.dec.dstate = true)
    (hdpl : s.dec.dpl.length ≤ s.cfg.maxLen) (hbody : s.dec.dbody.length ≤ maxBody s.cfg)
    (hidle : s.dec.dstate ∉ [.len2, .data, .fcs, .close]) : s.decoderConsistent := by
  simp only [List.mem_cons, List.not_mem_nil, or_false, not_or] at hidle
  obtain ⟨hlen2, hdata, hfcs, hclose⟩ := hidle
  exact ⟨hmode, hdpl, hbody, fun h => absurd h hdata, fun h => absurd h hlen2,
    fun h => h.elim (absurd · hfcs) (absurd · hclose)⟩

theorem State.decoderConsistent_of_reset {s : State} (hdec : s.dec = Decoder.reset) : s.decoderConsistent := by
  refine State.decoderConsistent_of_bounds ?_ ?_ ?_ ?_
  · rw [hdec]; cases s.cfg.mode <;> rfl
  · rw [hdec]; exact Nat.zero_le _
  · rw [hdec]; exact Nat.zero_le _
  · rw [hdec]; decide

/-- The end of a length field, with no payload byte taken yet (42_decoder.md R134, R135). -/
theorem State.lengthTaken_decoderConsistent {s : State} (hmode : s.cfg.mode = .basic) (hdpl : s.dec.dpl = [])
    (hbody : s.dec.dbody.length ≤ maxBody s.cfg) : s.lengthTaken.decoderConsistent := by
  unfold State.lengthTaken
  split
  · exact State.decoderConsistent_of_bounds (by simp [hmode, dstateOfMode]) (by simp [hdpl]) (by simpa using hbody)
      (by simp)
  next hmax =>
  split
  next hpos =>
    exact ⟨by simp [hmode, dstateOfMode], by simp [hdpl], hbody, fun _ => ⟨by simpa [hdpl] using hpos, not_lt.mp hmax⟩,
      by simp, by simp⟩
  next hzero =>
    exact ⟨by simp [hmode, dstateOfMode], by simp [hdpl], hbody, by simp, by simp, fun _ => by simp [hdpl]; omega⟩

/-- A payload byte, the last of which leads to FCS (42_decoder.md R136). -/
theorem State.takeData_decoderConsistent {s : State} (hs : s.decoderConsistent) (hmode : s.cfg.mode = .basic)
    (hd : s.dec.dstate = .data) (b : Byte) : (s.takeData b).decoderConsistent := by
  obtain ⟨_, _, hbody, hdata, _, _⟩ := hs
  obtain ⟨hmore, hmax⟩ := hdata hd
  unfold State.takeData
  simp only [List.length_append, List.length_singleton]
  split
  next hfull =>
    exact ⟨by simp [hmode, dstateOfMode], by simp; omega, hbody, by simp, by simp, fun _ => by simpa using hfull⟩
  next hpart =>
    refine ⟨by simp [hmode, hd, dstateOfMode], by simp; omega, hbody, fun _ => ⟨?_, hmax⟩, by simp [hd], by simp [hd]⟩
    simp only [List.length_append, List.length_singleton]
    omega

/-- A byte of a body, which ends in LENGTH once it is longer than MAXBODY (42_decoder.md R140 to R142). -/
theorem State.appendBody_decoderConsistent {s : State} (hs : s.decoderConsistent) (hmode : s.cfg.mode = .advanced)
    (b : Byte) : (s.appendBody b).decoderConsistent := by
  obtain ⟨_, hdpl, _⟩ := hs
  unfold State.appendBody
  split
  · exact State.decoderConsistent_of_bounds (by simp [hmode, dstateOfMode]) (by simpa using hdpl) (by simp) (by simp)
  next hfits =>
    exact State.decoderConsistent_of_bounds (by simp [hmode, dstateOfMode]) hdpl (not_lt.mp hfits) (by simp)

/-- A frame that is checked leaves CFG and the decoder. -/
theorem State.validate_kept {s t : State} {hdr p : List Byte} {f : Byte} (h : s.validate hdr p f = .next t) :
    t.cfg = s.cfg ∧ t.dec = s.dec := by
  obtain ⟨_, _, hcfg, _⟩ := (s.validate_moves t hdr p f h).fixed
  refine ⟨hcfg, ?_⟩
  rcases s.validate_cases hdr p f with ⟨k, hk⟩ | hk
  · cases hk.symm.trans h
    exact s.frameError_dec k
  · exact (decodeFrame_effect (hk.symm.trans h)).kept.1

theorem State.parseAdvanced_kept {s t : State} {body : List Byte} (h : s.parseAdvanced body = .next t) :
    t.cfg = s.cfg ∧ t.dec = s.dec := by
  obtain ⟨_, _, hcfg, _⟩ := (s.parseAdvanced_moves t body h).fixed
  refine ⟨hcfg, ?_⟩
  rcases s.parseAdvanced_cases body with ⟨k, hk⟩ | ⟨a, c, p, hk⟩
  · cases hk.symm.trans h
    exact s.frameError_dec k
  · exact (decodeFrame_effect (hk.symm.trans h)).kept.1

/-- A byte of basic mode (42_decoder.md R131 to R138). -/
theorem State.basicStep_decoderConsistent {s t : State} {b : Byte} (hs : s.decoderConsistent)
    (hmode : s.cfg.mode = .basic) (h : s.basicStep b = .next t) : t.decoderConsistent := by
  obtain ⟨_, hdpl, hbody, _, hlen2, hfull⟩ := id hs
  cases hd : s.dec.dstate <;> simp only [State.basicStep, hd] at h
  case hunt =>
    cases h
    split
    · exact State.decoderConsistent_of_bounds (by simp [hmode, dstateOfMode]) hdpl hbody (by simp)
    · exact hs
  case addr =>
    cases h
    split
    · exact hs
    · exact State.decoderConsistent_of_bounds (by simp [hmode, dstateOfMode]) hdpl hbody (by simp)
  case ctrl =>
    cases h
    exact State.decoderConsistent_of_bounds (by simp [hmode, dstateOfMode]) hdpl hbody (by simp)
  case len1 =>
    cases h
    unfold State.takeLen1
    simp only
    split
    · exact State.lengthTaken_decoderConsistent hmode rfl hbody
    · exact ⟨by simp [hmode, dstateOfMode], Nat.zero_le _, hbody, by simp, fun _ => rfl, by simp⟩
  case len2 =>
    cases h
    exact State.lengthTaken_decoderConsistent hmode (hlen2 hd) hbody
  case data =>
    cases h
    exact State.takeData_decoderConsistent hs hmode hd b
  case fcs =>
    cases h
    exact ⟨by simp [hmode, dstateOfMode], hdpl, hbody, by simp, by simp, fun _ => hfull (.inl hd)⟩
  case close =>
    split at h
    · obtain ⟨hcfg, hdec⟩ := State.validate_kept h
      refine State.decoderConsistent_congr hcfg hdec ?_
      exact State.decoderConsistent_of_bounds (by simp [hmode, dstateOfMode]) hdpl hbody (by simp)
    · cases h
      exact State.decoderConsistent_of_bounds (by simp [hmode, dstateOfMode]) (by simpa using hdpl)
        (by simpa using hbody) (by simp)
  all_goals cases h

/-- A byte of advanced mode (42_decoder.md R139 to R144). -/
theorem State.advancedStep_decoderConsistent {s t : State} {b : Byte} (hs : s.decoderConsistent)
    (hmode : s.cfg.mode = .advanced) (h : s.advancedStep b = .next t) : t.decoderConsistent := by
  obtain ⟨_, hdpl, hbody, _⟩ := id hs
  cases hd : s.dec.dstate <;> simp only [State.advancedStep, hd] at h
  case hunt =>
    cases h
    split
    · exact State.decoderConsistent_of_bounds (by simp [hmode, dstateOfMode]) hdpl (Nat.zero_le _) (by simp)
    · exact hs
  case body =>
    split at h
    · split at h
      · cases h; exact hs
      · obtain ⟨hcfg, hdec⟩ := State.parseAdvanced_kept h
        refine State.decoderConsistent_congr hcfg hdec ?_
        exact State.decoderConsistent_of_bounds (by simp [hmode, dstateOfMode]) hdpl (Nat.zero_le _) (by simp)
    · split at h
      · cases h
        exact State.decoderConsistent_of_bounds (by simp [hmode, dstateOfMode]) hdpl hbody (by simp)
      · cases h
        exact State.appendBody_decoderConsistent hs hmode b
  case esc =>
    split at h
    · cases h
      exact State.decoderConsistent_of_bounds (by simp [hmode, dstateOfMode]) (by simpa using hdpl) (by simp) (by simp)
    · cases h
      exact State.appendBody_decoderConsistent hs hmode _
  all_goals cases h

theorem execRxByte_keeps_decoder {b : Byte} {s t : State} (hs : s.decoderConsistent) (h : execRxByte b s = .next t) :
    t.decoderConsistent := by
  by_cases hup : s.link = .up
  · cases hmode : s.cfg.mode with
    | basic =>
      rw [execRxByte_basic b s hup hmode] at h
      exact State.basicStep_decoderConsistent (s := s.withReply .nothing) hs hmode h
    | advanced =>
      rw [execRxByte_advanced b s hup hmode] at h
      exact State.advancedStep_decoderConsistent (s := s.withReply .nothing) hs hmode h
  · rw [execRxByte_ignored b s hup] at h
    cases h
    exact hs

/-- A command leaves the decoder or clears it (42_decoder.md R155, R156). -/
theorem CommandEffect.dec {s t : State} {i : Instr} (h : CommandEffect s i t) :
    t.dec = s.dec ∨ t.dec = Decoder.reset := by
  cases h with
  | timedOut d => exact .inl (s.timerExpired_kept d.toNat).1
  | wrote d data => exact .inl (s.sendPieces_kept d.toNat data).1
  | linkLost => exact .inr rfl
  | tornDown => exact .inr rfl
  | resetDone => exact .inr rfl
  | _ => exact .inl rfl

theorem exec_keeps_decoder {i : Instr} {s t : State} (hs : s.decoderConsistent) (h : exec i s = .next t) :
    t.decoderConsistent := by
  by_cases hbyte : ∃ b, i = .rxByte b
  · obtain ⟨b, rfl⟩ := hbyte
    exact execRxByte_keeps_decoder hs h
  by_cases hreset : i = .reset
  · subst hreset
    cases execReset_effect h with
    | answered => exact hs
    | resetDone => exact State.decoderConsistent_of_reset rfl
  obtain ⟨_, _, _, hkept⟩ := exec_fixed h
  have hcfg := hkept hreset
  cases exec_effect h with
  | command h =>
    rcases h.dec with hdec | hdec
    · exact State.decoderConsistent_congr hcfg hdec hs
    · exact State.decoderConsistent_of_reset hdec
  | frame h => exact State.decoderConsistent_congr hcfg h.kept.1 hs
  | _ => exact absurd ⟨_, rfl⟩ hbyte

/-- Settles O12: one byte at a time; every other operation leaves the decoder or clears it. -/
theorem everyStepKeepsDecoderConsistent : Obligations.EveryStepKeepsDecoderConsistent := by
  intro s t hs hstep
  exact step_keeps State.decoderConsistent (fun _ _ _ h => h) (fun _ _ _ => exec_keeps_decoder) s t hs hstep

end Sys2Proof.Machine

/-! The channels: every operation keeps items 1 to 8 of 10_state.md R47. Most operations rewrite one record
(`State.Admits`), and closing CH[0], a lost link and TEARDOWN close a run of them. -/

namespace Sys2Proof.Machine

/-! ### One record -/

theorem channelConsistent_reset : channelConsistent Channel.reset := by decide

/-- A record that is Closed at rest. -/
theorem channelConsistent_closedChannel (c : Channel) : channelConsistent (closedChannel c) := by
  simp [channelConsistent, closedChannel]

theorem channelConsistent_openingChannel (c : Channel) : channelConsistent (openingChannel c) := by
  simp [channelConsistent, openingChannel, Config.openAttempts]

theorem channelConsistent_closingChannel (c : Channel) : channelConsistent (closingChannel c) := by
  simp [channelConsistent, closingChannel, Config.closeAttempts]

theorem channelConsistent_openedChannel (c : Channel) : channelConsistent (openedChannel c) := by
  simp [channelConsistent, openedChannel]

/-- The buffer and ovf play no part in items 1, 2, 3 and 7. -/
theorem channelConsistent_data {c : Channel} (hc : channelConsistent c) (ovf : Bool) (buf : List Byte) :
    channelConsistent { c with ovf := ovf, buf := buf } := hc

/-- ATT holds the count of one more attempt than it shows, and no attempt shows as 0 (10_state.md R33). -/
theorem attempts_succ : ∀ att : BitVec 2, att.toNat < Config.openAttempts →
    att + 1 ≠ 0 ∧ (att + 1).toNat ≤ Config.openAttempts := by decide

theorem attempts_eq_zero : ∀ att : BitVec 2, att.toNat < Config.closeAttempts → att = 0 := by decide

/-- One more attempt of an Opening channel that has an attempt left (43_mux_control.md R174). -/
theorem channelConsistent_retried {c : Channel} (hc : channelConsistent c) (hstate : c.state = .opening)
    (hatt : c.att.toNat < Config.openAttempts) : channelConsistent { c with att := c.att + 1 } := by
  obtain ⟨htmr, _, _, _, hremote⟩ := hc
  obtain ⟨hne, hle⟩ := attempts_succ c.att hatt
  refine ⟨htmr, ⟨fun h => absurd h hne, fun h => ?_⟩, fun _ => hle, fun h => ?_, hremote⟩
  · simp [hstate] at h
  · simp [hstate] at h

/-- A Closing channel has no attempt left (10_state.md R33). -/
theorem channelConsistent.closing_spent {c : Channel} (hc : channelConsistent c) (hstate : c.state = .closing) :
    ¬ c.att.toNat < Config.closeAttempts := by
  obtain ⟨_, hatt, _⟩ := hc
  intro hlt
  have hidle := hatt.mp (attempts_eq_zero c.att hlt)
  simp [hstate] at hidle

/-! ### What the channel invariant reads -/

theorem State.channelsConsistent_congr {s t : State} (hcfg : t.cfg = s.cfg) (hlink : t.link = s.link)
    (hch : t.ch = s.ch) (hs : s.channelsConsistent) : t.channelsConsistent := by
  simpa only [State.channelsConsistent, State.tableComplete, State.chan, hcfg, hlink, hch] using hs

/-- A channel that is not Closed has LINK = UP, and CH[0] Open unless it is CH[0] (10_state.md R47 items 4 and 5). -/
theorem State.channelsConsistent.inUse {s : State} (hs : s.channelsConsistent) {d : Nat} (hd : d ≤ s.cfg.nch)
    (hopen : (s.chan d).state ≠ .closed) : s.link = .up ∧ (d ≠ 0 → (s.chan 0).state = .opened) := by
  obtain ⟨_, _, hdown, hcontrol, _⟩ := hs
  exact ⟨by_contra fun h => hopen (hdown h d hd), fun hne => by_contra fun h => hopen (hcontrol h d hd hne)⟩

/-- In `s` the record of channel `d` may become `c`: R47 holds of `c`, a channel in use has LINK = UP and CH[0] Open,
and CH[0] holds no data and is not closed under a logical channel. -/
structure State.Admits (s : State) (d : Nat) (c : Channel) : Prop where
  served : d ≤ s.cfg.nch
  consistent : channelConsistent c
  link : s.link ≠ .up → c.state = .closed
  control : c.state ≠ .closed → d ≠ 0 → (s.chan 0).state = .opened
  dead : s.link = .dead → c.buf = []
  noData : d = 0 → c.buf = [] ∧ c.ovf = false
  last : d = 0 → c.state ≠ .opened → ∀ e, e ≤ s.cfg.nch → e ≠ 0 → (s.chan e).state = .closed

/-- Rewriting one record as R47 admits it. -/
theorem State.Admits.channelsConsistent {s t : State} {d : Nat} {c : Channel} (hs : s.channelsConsistent)
    (hc : s.Admits d c) (hcfg : t.cfg = s.cfg) (hlink : t.link = s.link) (hch : t.ch = s.ch.set d c) :
    t.channelsConsistent := by
  refine State.channelsConsistent_congr (s := s.setChan d c) hcfg hlink hch ?_
  obtain ⟨htable, hrec, hdown, hcontrol, hdead, hbuf, hovf⟩ := hs
  have hd : d < s.ch.length := by have := hc.served; rw [htable]; omega
  have hchan : ∀ e, (s.setChan d c).chan e = if d = e then c else s.chan e := by
    intro e; simp [State.chan_setChan, hd]
  refine ⟨(s.setChan_length d c).trans htable, fun e he => ?_, fun hl e he => ?_, fun h0 e he hne => ?_,
    fun hl e he => ?_, ?_, ?_⟩
  · rw [hchan]
    split
    · exact hc.consistent
    · exact hrec e he
  · rw [hchan]
    split
    · exact hc.link hl
    · exact hdown hl e he
  · rw [hchan] at h0 ⊢
    split
    next hde =>
      subst hde
      rw [if_neg hne] at h0
      exact by_contra fun h => h0 (hc.control h hne)
    next hde =>
      split at h0
      next hd0 => exact hc.last hd0 h0 e he hne
      next hd0 => exact hcontrol h0 e he hne
  · rw [hchan]
    split
    · exact hc.dead hl
    · exact hdead hl e he
  · rw [hchan]
    split
    next hd0 => exact (hc.noData hd0).1
    next hd0 => exact hbuf
  · rw [hchan]
    split
    next hd0 => exact (hc.noData hd0).2
    next hd0 => exact hovf

/-- A record in use may move to another state in use, its buffer and ovf as they are. -/
theorem State.Admits.ofInUse {s : State} (hs : s.channelsConsistent) {d : Nat} (hd : d ≤ s.cfg.nch)
    (hopen : (s.chan d).state ≠ .closed) {c : Channel} (hc : channelConsistent c) (hbuf : c.buf = (s.chan d).buf)
    (hovf : c.ovf = (s.chan d).ovf)
    (hlast : d = 0 → c.state ≠ .opened → ∀ e, e ≤ s.cfg.nch → e ≠ 0 → (s.chan e).state = .closed) : s.Admits d c := by
  obtain ⟨hup, hcontrol⟩ := hs.inUse hd hopen
  obtain ⟨_, _, _, _, _, hbuf0, hovf0⟩ := hs
  exact ⟨hd, hc, fun h => absurd hup h, fun _ => hcontrol, fun h => by simp [hup] at h,
    fun h0 => by subst h0; exact ⟨hbuf.trans hbuf0, hovf.trans hovf0⟩, hlast⟩

/-- New data for a logical channel: its state is what it was. -/
theorem State.Admits.ofData {s : State} (hs : s.channelsConsistent) {d : Nat} (hd : d ≤ s.cfg.nch) (hne : d ≠ 0)
    (ovf : Bool) {buf : List Byte} (hdead : s.link = .dead → buf = []) :
    s.Admits d { s.chan d with ovf := ovf, buf := buf } := by
  have huse := fun h => hs.inUse hd h
  obtain ⟨_, hrec, hdown, _⟩ := hs
  exact ⟨hd, channelConsistent_data (hrec d hd) ovf buf, fun h => hdown h d hd, fun h => (huse h).2, hdead,
    fun h0 => absurd h0 hne, fun h0 => absurd h0 hne⟩

/-! ### Runs of closings -/

/-- Each record is closed or left as it was, and all are closed where LINK or CH[0] asks for it (10_state.md R47). -/
theorem State.channelsConsistent_of_closed {s t : State} (hs : s.channelsConsistent) (hcfg : t.cfg = s.cfg)
    (hlen : t.ch.length = s.ch.length)
    (hchan : ∀ e, t.chan e = s.chan e ∨ t.chan e = closedChannel (s.chan e))
    (hlink : t.link ≠ .up → ∀ e, e ≤ s.cfg.nch → (t.chan e).state = .closed)
    (hcontrol : (t.chan 0).state ≠ .opened → ∀ e, e ≤ s.cfg.nch → e ≠ 0 → (t.chan e).state = .closed)
    (hdead : t.link = .dead → s.link = .dead) : t.channelsConsistent := by
  obtain ⟨htable, hrec, _, _, hempty, hbuf, hovf⟩ := hs
  have hkept : ∀ e, (t.chan e).buf = (s.chan e).buf ∧ (t.chan e).ovf = (s.chan e).ovf := by
    intro e
    rcases hchan e with h | h <;> rw [h] <;> exact ⟨rfl, rfl⟩
  refine ⟨by rw [State.tableComplete, hlen, hcfg, htable], fun e he => ?_, by rwa [hcfg], by rwa [hcfg],
    fun hl e he => ?_, (hkept 0).1.trans hbuf, (hkept 0).2.trans hovf⟩
  · rcases hchan e with h | h <;> rw [h]
    · exact hrec e (hcfg ▸ he)
    · exact channelConsistent_closedChannel _
  · exact (hkept e).1.trans (hempty (hdead hl) e (hcfg ▸ he))

/-- A channel after CloseWith is closed, or is as it was. -/
theorem State.chan_closeWith_cases (s : State) (d : Nat) (k : EventKind) (a : Byte) (e : Nat) :
    (s.closeWith d k a).chan e = s.chan e ∨ (s.closeWith d k a).chan e = closedChannel (s.chan e) := by
  rw [State.chan_closeWith]
  split
  · exact .inr rfl
  · split
    · exact .inr rfl
    · exact .inl rfl

/-- Closing a channel, and with CH[0] every other (43_mux_control.md R177, R178). -/
theorem State.closeWith_channelsConsistent {s : State} (hs : s.channelsConsistent) (d : Nat) (k : EventKind)
    (a : Byte) : (s.closeWith d k a).channelsConsistent := by
  have hchan := s.chan_closeWith_cases d k a
  have hstays : ∀ e, (s.chan e).state = .closed → ((s.closeWith d k a).chan e).state = .closed := by
    intro e he
    rcases hchan e with h | h <;> rw [h]
    · exact he
    · rfl
  have hs' := hs
  obtain ⟨_, _, hdown, hcontrol, _⟩ := hs'
  refine State.channelsConsistent_of_closed hs (by simp) (by simp) hchan ?_ ?_ (by simp)
  · rw [State.closeWith_link]
    exact fun hl e he => hstays e (hdown hl e he)
  · intro h0 e he hne
    by_cases hd : d = 0
    · by_cases hc : (s.chan e).state = .closed
      · exact hstays e hc
      · rw [State.chan_closeWith, if_neg (by omega), if_pos ⟨hd, by omega, he, hc⟩]
        rfl
    · rw [State.chan_closeWith, if_neg (Ne.symm hd), if_neg (by simp [hd])] at h0
      exact hstays e (hcontrol h0 e he hne)

/-- A table in which every served channel is Closed at rest. -/
theorem State.channelsConsistent_of_allClosed {s : State} (htable : s.tableComplete)
    (hrec : ∀ d, d ≤ s.cfg.nch → channelConsistent (s.chan d) ∧ (s.chan d).state = .closed)
    (hdead : s.link = .dead → ∀ d, d ≤ s.cfg.nch → (s.chan d).buf = []) (hbuf : (s.chan 0).buf = [])
    (hovf : (s.chan 0).ovf = false) : s.channelsConsistent :=
  ⟨htable, fun d hd => (hrec d hd).1, fun _ d hd => (hrec d hd).2, fun _ d hd _ => (hrec d hd).2, hdead, hbuf, hovf⟩

/-- RESET's table (70_reset_and_hazards.md R271). -/
theorem State.chan_afterReset (s : State) (d : Nat) : s.afterReset.chan d = Channel.reset := by
  rcases s.afterReset.chan_mem d with h | h
  · exact List.eq_of_mem_replicate h
  · exact h

theorem State.afterReset_channelsConsistent (s : State) : s.afterReset.channelsConsistent := by
  have hchan := s.chan_afterReset
  refine State.channelsConsistent_of_allClosed (by simp [State.tableComplete, State.afterReset]) ?_ ?_ ?_ ?_
  · intro d _
    rw [hchan]
    exact ⟨channelConsistent_reset, rfl⟩
  · intro _ d _
    rw [hchan]
    rfl
  · rw [hchan]; rfl
  · rw [hchan]; rfl

/-- Every move keeps the length of the channel table. -/
theorem Move.length {s t : State} (hm : Move s t) : t.ch.length = s.ch.length := by
  cases hm with
  | chan d c => exact s.setChan_length d c
  | error k => rw [State.frameError_ch]
  | good => rw [State.goodFrame_ch]
  | _ => rfl

theorem Moves.length {s t : State} (hm : Moves s t) : t.ch.length = s.ch.length :=
  Moves.rel (fun a b => b.ch.length = a.ch.length) (fun _ => rfl) (fun _ _ _ hab hbc => hbc.trans hab)
    (fun _ _ => Move.length) hm

end Sys2Proof.Machine

/-! The channels, operation by operation: each keeps items 1 to 8 of 10_state.md R47. -/

namespace Sys2Proof.Machine

/-! ### Timers and received frames -/

/-- An expired timer counts an attempt of an Opening channel, or closes the channel (43_mux_control.md R174). -/
theorem State.timerExpired_channelsConsistent {s : State} (hs : s.channelsConsistent) {d : Nat} (hd : d ≤ s.cfg.nch) :
    (s.timerExpired d).channelsConsistent := by
  have hs' := hs
  obtain ⟨_, hrec, _, hcontrol, _⟩ := hs'
  unfold State.timerExpired
  split
  · exact hs
  split
  next hstate =>
    split
    next hatt =>
      have hretried := channelConsistent_retried (hrec d hd) hstate hatt
      have hlast : d = 0 → ∀ e, e ≤ s.cfg.nch → e ≠ 0 → (s.chan e).state = .closed := by
        rintro rfl
        exact hcontrol (by simp [hstate])
      refine State.Admits.channelsConsistent hs (d := d) ?_ rfl rfl rfl
      exact .ofInUse hs hd (by simp [hstate]) hretried rfl rfl (fun h0 _ => hlast h0)
    · exact s.closeWith_channelsConsistent hs d _ _
  next hstate =>
    rw [if_neg ((hrec d hd).closing_spent hstate)]
    exact s.closeWith_channelsConsistent hs d _ _
  · exact hs
  · exact hs

/-- An Opening channel that is answered is Open (43_mux_control.md R181, R184). -/
theorem State.admits_opened {s : State} (hs : s.channelsConsistent) {d : Nat} (hd : d ≤ s.cfg.nch)
    (hstate : (s.chan d).state = .opening) : s.Admits d (openedChannel (s.chan d)) :=
  .ofInUse hs hd (by simp [hstate]) (channelConsistent_openedChannel _) rfl rfl (fun _ h => absurd rfl h)

/-- An accepted remote open: CH[0] comes first (43_mux_control.md R180). -/
theorem State.admits_remotelyOpened {s : State} {d : Nat} (hd : d ≤ s.cfg.nch) (hup : s.link = .up)
    (haccepted : s.remoteOpenAccepted d = true) : s.Admits d (remotelyOpenedChannel (s.chan d)) where
  served := hd
  consistent := by simp [channelConsistent, remotelyOpenedChannel, emptiedChannel, openedChannel]
  link h := absurd hup h
  control _ hne := by
    simp only [State.remoteOpenAccepted, Bool.and_eq_true, Bool.or_eq_true, decide_eq_true_eq] at haccepted
    exact haccepted.2.resolve_left hne
  dead h := by simp [hup] at h
  noData _ := ⟨rfl, rfl⟩
  last _ h := absurd rfl h

theorem State.rxSabmRule_channelsConsistent {s : State} (hs : s.channelsConsistent) (hup : s.link = .up) {d : Nat}
    (hd : d ≤ s.cfg.nch) (pf : Bool) : (s.rxSabmRule d pf).channelsConsistent := by
  unfold State.rxSabmRule
  split
  · split
    next haccepted => exact (State.admits_remotelyOpened hd hup haccepted).channelsConsistent hs rfl rfl rfl
    · exact State.channelsConsistent_congr rfl rfl rfl hs
  next hstate => exact (State.admits_opened hs hd hstate).channelsConsistent hs rfl rfl rfl
  · exact State.channelsConsistent_congr rfl rfl rfl hs
  · exact State.channelsConsistent_congr rfl rfl rfl hs

theorem State.rxUaRule_channelsConsistent {s : State} (hs : s.channelsConsistent) {d : Nat} (hd : d ≤ s.cfg.nch) :
    (s.rxUaRule d).channelsConsistent := by
  unfold State.rxUaRule
  split
  · exact hs
  next hstate => exact (State.admits_opened hs hd hstate).channelsConsistent hs rfl rfl rfl
  · exact hs
  · exact s.closeWith_channelsConsistent hs d _ _

theorem State.rxDmRule_channelsConsistent {s : State} (hs : s.channelsConsistent) (d : Nat) :
    (s.rxDmRule d).channelsConsistent := by
  unfold State.rxDmRule
  split
  · exact hs
  all_goals exact s.closeWith_channelsConsistent hs d _ _

theorem State.rxDiscRule_channelsConsistent {s : State} (hs : s.channelsConsistent) (d : Nat) (pf : Bool) :
    (s.rxDiscRule d pf).channelsConsistent := by
  have htold : (s.sendUa d pf).channelsConsistent := State.channelsConsistent_congr rfl rfl rfl hs
  unfold State.rxDiscRule
  split
  · exact State.channelsConsistent_congr rfl rfl rfl hs
  all_goals exact State.closeWith_channelsConsistent htold d _ _

theorem State.rxDataRule_channelsConsistent {s : State} (hs : s.channelsConsistent) (hup : s.link = .up) {d : Nat}
    (hd : d ≤ s.cfg.nch) (p : List Byte) : (s.rxDataRule d p).channelsConsistent := by
  unfold State.rxDataRule
  split
  · exact State.channelsConsistent_congr rfl rfl rfl hs
  split
  · unfold State.rxCtrlRule
    split <;> exact State.channelsConsistent_congr rfl rfl rfl hs
  next hne =>
  have hdata : ∀ ovf buf, s.Admits d { s.chan d with ovf := ovf, buf := buf } :=
    fun ovf buf => .ofData hs hd hne ovf (fun h => by simp [hup] at h)
  split
  · exact hs
  split
  · exact (hdata true (s.chan d).buf).channelsConsistent hs rfl rfl rfl
  · exact (hdata (s.chan d).ovf ((s.chan d).buf ++ p)).channelsConsistent hs rfl rfl rfl

theorem FrameEffect.channelsConsistent {s t : State} {f : Instr} (hs : s.channelsConsistent) (h : FrameEffect s f t) :
    t.channelsConsistent := by
  have hgood : s.goodFrame.channelsConsistent :=
    State.channelsConsistent_congr s.goodFrame_cfg s.goodFrame_link s.goodFrame_ch hs
  have hup' : s.link = .up → s.goodFrame.link = .up := s.goodFrame_link.trans
  have hserved' : ∀ {d : Dlci}, d.toNat ≤ s.cfg.nch → d.toNat ≤ s.goodFrame.cfg.nch := by simp
  cases h with
  | ignored => exact hs
  | failed _ k =>
    exact State.channelsConsistent_congr (s.frameError_cfg k) (s.frameError_link k) (s.frameError_ch k) hs
  | sabm d _ pf hup hd => exact State.rxSabmRule_channelsConsistent hgood (hup' hup) (hserved' hd) pf
  | ua d _ _ _ hd => exact State.rxUaRule_channelsConsistent hgood (hserved' hd)
  | dm d => exact State.rxDmRule_channelsConsistent hgood d.toNat
  | disc d _ pf => exact State.rxDiscRule_channelsConsistent hgood d.toNat pf
  | data _ d p _ hup hd => exact State.rxDataRule_channelsConsistent hgood (hup' hup) (hserved' hd) p

/-! ### Commands -/

theorem State.admits_started {s : State} (hs : s.channelsConsistent) (hup : s.link = .up)
    (hclosed : (s.chan 0).state = .closed) : s.Admits 0 (openingChannel (s.chan 0)) := by
  obtain ⟨_, _, _, hcontrol, _, hbuf, hovf⟩ := hs
  exact ⟨Nat.zero_le _, channelConsistent_openingChannel _, fun h => absurd hup h, fun _ h => absurd rfl h,
    fun h => by simp [hup] at h, fun _ => ⟨hbuf, hovf⟩, fun _ _ => hcontrol (by simp [hclosed])⟩

theorem State.admits_allocated {s : State} {e : Nat} (hup : s.link = .up) (hcontrol : (s.chan 0).state = .opened)
    (hlowest : s.lowestClosed = some e) : s.Admits e (emptiedChannel (openingChannel (s.chan e))) := by
  obtain ⟨hpos, hserved, _⟩ := (s.lowestClosed_some e).mp hlowest
  exact ⟨hserved, channelConsistent_data (channelConsistent_openingChannel _) false [], fun h => absurd hup h,
    fun _ _ => hcontrol, fun _ => rfl, fun _ => ⟨rfl, rfl⟩, fun h => by omega⟩

theorem State.admits_closing {s : State} (hs : s.channelsConsistent) {d : Dlci} (hserved : d.toNat ≤ s.cfg.nch)
    (hopened : (s.chan d.toNat).state = .opened) (hlast : d = 0 → s.logicalAllClosed = true) :
    s.Admits d.toNat (closingChannel (s.chan d.toNat)) := by
  refine .ofInUse hs hserved (by simp [hopened]) (channelConsistent_closingChannel _) rfl rfl fun h0 _ e he hne => ?_
  have hd : d = 0 := BitVec.eq_of_toNat_eq h0
  exact s.logicalAllClosed_iff.mp (hlast hd) e (by omega) he

/-- Every served channel of a lost link is closed, its buffer kept. -/
theorem State.chan_linkLost (s : State) (e : Nat) :
    s.linkLost.chan e = if e ≤ s.cfg.nch then closedChannel (s.chan e) else s.chan e := by
  have h := State.chan_loseChannels { s with link := .down, writing := false } _ s.controlChannelLast_nodup e
  simp only [State.mem_controlChannelLast] at h
  exact h

theorem State.linkLost_channelsConsistent {s : State} (hs : s.channelsConsistent) : s.linkLost.channelsConsistent := by
  have hmoves : Moves { s with link := .down, writing := false } s.linkLost :=
    Moves.foldl _ (fun s d hd => s.closeLoss_moves d _ hd) _ _ (fun d hd => (s.mem_controlChannelLast d).mp hd)
  have hclosed : ∀ e, e ≤ s.cfg.nch → (s.linkLost.chan e).state = .closed := by
    intro e he
    rw [State.chan_linkLost, if_pos he]
    rfl
  refine State.channelsConsistent_of_closed hs (by rw [s.linkLost_frame]) hmoves.length ?_ (fun _ => hclosed)
    (fun _ e he _ => hclosed e he) (by rw [s.linkLost_frame]; simp)
  intro e
  rw [State.chan_linkLost]
  split
  · exact .inr rfl
  · exact .inl rfl

/-- Every channel torn down is as after RESET (43_mux_control.md R176). -/
theorem State.chan_tornDown (s : State) (e : Nat) :
    s.tornDown.chan e = if e ≤ s.cfg.nch then Channel.reset else s.chan e := by
  have h := s.chan_tearChannels _ s.controlChannelLast_nodup e
  simp only [State.mem_controlChannelLast] at h
  exact h

theorem State.tornDown_channelsConsistent {s : State} (hs : s.channelsConsistent) : s.tornDown.channelsConsistent := by
  have hmoves : Moves s s.tornDown :=
    .tail (Moves.foldl _ State.tearChannel_moves _ _ (fun d hd => (s.mem_controlChannelLast d).mp hd))
      (.linkLost .dead (by decide))
  obtain ⟨_, _, hcfg, _⟩ := hmoves.fixed
  have hchan : ∀ e, e ≤ s.cfg.nch → s.tornDown.chan e = Channel.reset := by
    intro e he
    rw [State.chan_tornDown, if_pos he]
  obtain ⟨htable, _⟩ := hs
  have hzero := hchan 0 (Nat.zero_le _)
  refine State.channelsConsistent_of_allClosed ?_ (fun d hd => ?_) (fun _ d hd => ?_) ?_ ?_
  · exact hmoves.length.trans (htable.trans (by rw [hcfg]))
  · have := hchan d (hcfg ▸ hd)
    exact ⟨this.symm ▸ channelConsistent_reset, congrArg Channel.state this⟩
  · exact congrArg Channel.buf (hchan d (hcfg ▸ hd))
  · exact congrArg Channel.buf hzero
  · exact congrArg Channel.ovf hzero

/-- CLRSTAT clears ovf on every channel (44_data_path.md R214). -/
theorem State.chan_clearStatistics (s : State) (d : Nat) :
    s.clearStatistics.chan d = { s.chan d with ovf := false } := by
  simp only [State.chan, State.clearStatistics, List.getD_eq_getElem?_getD, List.getElem?_map]
  cases s.ch[d]? <;> rfl

theorem State.clearStatistics_channelsConsistent {s : State} (hs : s.channelsConsistent) :
    s.clearStatistics.channelsConsistent := by
  obtain ⟨htable, hrec, hdown, hcontrol, hdead, hbuf, _⟩ := hs
  refine ⟨(List.length_map _).trans htable, ?_, ?_, ?_, ?_, ?_, ?_⟩
  all_goals simp only [State.chan_clearStatistics]
  · exact fun d hd => channelConsistent_data (hrec d hd) false _
  · exact hdown
  · exact hcontrol
  · exact hdead
  · exact hbuf

theorem CommandEffect.channelsConsistent {s t : State} {i : Instr} (hs : s.channelsConsistent)
    (h : CommandEffect s i t) : t.channelsConsistent := by
  cases h with
  | answered => exact hs
  | started _ hup hclosed => exact (State.admits_started hs hup hclosed).channelsConsistent hs rfl rfl rfl
  | allocated _ e hup hcontrol hlowest =>
    exact (State.admits_allocated hup hcontrol hlowest).channelsConsistent hs rfl rfl rfl
  | closing d _ hup hserved hopened hlast =>
    exact (State.admits_closing hs hserved hopened hlast).channelsConsistent hs rfl rfl rfl
  | timedOut d _ hserved => exact State.timerExpired_channelsConsistent hs hserved
  | linkLost => exact State.linkLost_channelsConsistent hs
  | tornDown => exact State.tornDown_channelsConsistent hs
  | wrote d data =>
    obtain ⟨_, _, hcfg, _⟩ := (s.sendPieces_moves d.toNat data).fixed
    obtain ⟨_, hlink, _, hch⟩ := s.sendPieces_kept d.toNat data
    exact State.channelsConsistent_congr hcfg hlink hch hs
  | read d n _ k v hlogical hserved =>
    have hempty : s.link = .dead → (s.chan d.toNat).buf.drop k = [] := by
      obtain ⟨_, _, _, _, hdead, _⟩ := hs
      intro hl
      rw [hdead hl d.toNat hserved, List.drop_nil]
    have hadmits := State.Admits.ofData hs hserved (by omega) (s.chan d.toNat).ovf hempty
    exact hadmits.channelsConsistent hs rfl rfl rfl
  | sentControl => exact State.channelsConsistent_congr rfl rfl rfl hs
  | cleared => exact s.clearStatistics_channelsConsistent hs
  | popped => exact State.channelsConsistent_congr rfl rfl rfl hs
  | resetDone => exact s.afterReset_channelsConsistent

theorem exec_keeps_channels {i : Instr} {s t : State} (hs : s.channelsConsistent) (h : exec i s = .next t) :
    t.channelsConsistent := by
  cases exec_effect h with
  | command h => exact h.channelsConsistent hs
  | frame h => exact h.channelsConsistent hs
  | listened b h => rw [h.2]; exact hs
  | erred b h =>
    obtain ⟨k, h⟩ := h
    rw [h]
    exact State.channelsConsistent_congr (s.frameError_cfg k) (s.frameError_link k) (s.frameError_ch k) hs
  | completed b f dec hc h =>
    have hs' : ({ s with dec := dec, reply := .nothing } : State).channelsConsistent := hs
    exact h.channelsConsistent hs'

/-- Settles O11: every operation rewrites one record as R47 admits it, or closes records, or empties the table. -/
theorem everyStepKeepsChannelsConsistent : Obligations.EveryStepKeepsChannelsConsistent := by
  intro s t hs hstep
  exact step_keeps State.channelsConsistent (fun _ _ _ h => h) (fun _ _ _ => exec_keeps_channels) s t hs hstep

end Sys2Proof.Machine

/-! The whole invariant: RESET establishes it, and every step keeps it. -/

namespace Sys2Proof.Machine

/-! ### Ownership of the physical stream (70_reset_and_hazards.md R279) -/

/-- No timer is armed while LINK is not UP, so an expired one does nothing (10_state.md R47 item 4). -/
theorem State.timerExpired_linkLost {s : State} (hs : s.channelsConsistent) (hdown : s.link ≠ .up) {d : Nat}
    (hd : d ≤ s.cfg.nch) : s.timerExpired d = s := by
  obtain ⟨_, _, hclosed, _⟩ := hs
  unfold State.timerExpired
  split
  · rfl
  · rw [hclosed hdown d hd]

theorem CommandEffect.ownership {s t : State} {i : Instr} (hch : s.channelsConsistent) (hs : s.ownershipConsistent)
    (h : CommandEffect s i t) : t.ownershipConsistent := by
  cases h with
  | answered => exact hs
  | started _ hup => exact fun _ => hup
  | allocated _ _ hup => exact fun _ => hup
  | closing _ _ hup => exact fun _ => hup
  | timedOut d _ hserved =>
    by_cases hup : s.link = .up
    · obtain ⟨_, hlink, _⟩ := s.timerExpired_kept d.toNat
      exact fun _ => hlink.trans hup
    · rw [State.timerExpired_linkLost hch hup hserved]
      exact hs
  | linkLost =>
    intro hw
    simp only [State.answer_writing, State.decoderReset_writing] at hw
    rw [s.linkLost_frame] at hw
    cases hw
  | tornDown => exact fun hw => absurd hw (by simp)
  | wrote d data hup =>
    obtain ⟨_, hlink, _⟩ := s.sendPieces_kept d.toNat data
    exact fun _ => hlink.trans hup
  | read => exact hs
  | sentControl _ _ hup => exact fun _ => hup
  | cleared => exact hs
  | popped => exact hs
  | resetDone => exact fun _ => rfl

theorem FrameEffect.ownership {s t : State} {f : Instr} (hs : s.ownershipConsistent) (h : FrameEffect s f t) :
    t.ownershipConsistent := by
  by_cases hup : s.link = .up
  · exact fun _ => h.kept.2.trans hup
  · cases h with
    | ignored => exact hs
    | _ => contradiction

theorem exec_keeps_ownership {i : Instr} {s t : State} (hch : s.channelsConsistent) (hs : s.ownershipConsistent)
    (h : exec i s = .next t) : t.ownershipConsistent := by
  cases exec_effect h with
  | command h => exact h.ownership hch hs
  | frame h => exact h.ownership hs
  | listened b h => rw [h.2]; exact hs
  | erred b h =>
    obtain ⟨k, h⟩ := h
    rw [h]
    simpa [State.ownershipConsistent] using hs
  | completed b f dec hc h =>
    have hs' : ({ s with dec := dec, reply := .nothing } : State).ownershipConsistent := hs
    exact h.ownership hs'

/-! ### The joined invariant -/

theorem exec_keeps_inv {i : Instr} {s t : State} (hs : s.Inv) (h : exec i s = .next t) : t.Inv where
  configured := exec_keeps_configured hs.configured h
  channels := exec_keeps_channels hs.channels h
  decoder := exec_keeps_decoder hs.decoder h
  linkHealth := exec_keeps_linkHealth hs.linkHealth h
  capacity := exec_keeps_withinCapacity hs.capacity h
  events := exec_keeps_eventsLegal hs.events h
  ownership := exec_keeps_ownership hs.channels hs.ownership h

/-- The list of inputs and the configuration inputs play no part in the invariant. -/
theorem State.Inv.withInputs {s : State} (hs : s.Inv) (pins : Cfg) (rest : List Input) :
    ({ s with pins := pins, pending := rest } : State).Inv :=
  ⟨hs.configured, hs.channels, hs.decoder, hs.linkHealth, hs.capacity, hs.events, hs.ownership⟩

/-- Settles O16: each part of the invariant is kept by every operation, ownership with the help of the channels. -/
theorem everyStepKeepsTheInvariant : Obligations.EveryStepKeepsTheInvariant := by
  intro s t hs hstep
  exact step_keeps State.Inv (fun _ pins rest hs => hs.withInputs pins rest) (fun _ _ _ => exec_keeps_inv) s t hs hstep

/-- A state whose fields are at their reset values, whatever the parameters in range. -/
theorem State.afterReset_inv {s : State} (hrange : configInRange s.design s.pins = true) : s.afterReset.Inv where
  configured := hrange
  channels := s.afterReset_channelsConsistent
  decoder := State.decoderConsistent_of_reset rfl
  linkHealth := by
    obtain ⟨_, _, _, _, hlow, hhigh⟩ := configInRange_bounds hrange
    exact State.linkHealth_of_zero hlow hhigh rfl rfl
  capacity := s.afterReset_withinCapacity
  events _ hr := absurd hr List.not_mem_nil
  ownership _ := rfl

/-- Settles O10: RESET accepts the configuration and answers `State.afterReset`. -/
theorem resetOperationEstablishesTheInvariant : Obligations.ResetOperationEstablishesTheInvariant := by
  intro s hrange
  exact ⟨s.afterReset, if_pos hrange, State.afterReset_inv hrange⟩

/-- The reset state is what RESET makes of it. -/
theorem State.afterReset_reset : State.reset.afterReset = State.reset := rfl

/-- Settles O9: V0 is in range (00_scope.md R6 to R15), and RESET leaves the reset state as it is. -/
theorem resetStateMeetsTheInvariant : Obligations.ResetStateMeetsTheInvariant := by
  have hrange : configInRange State.reset.design State.reset.pins = true := by decide
  have hinv := State.afterReset_inv hrange
  rwa [State.afterReset_reset] at hinv

end Sys2Proof.Machine

/-! Receive buffers keep their bytes in arrival order (10_state.md R37, 20_memory.md R55). -/

namespace Sys2Proof.Machine

/-- No buffer of `s` loses a byte on the way to `t`, and new bytes join at the end. -/
def State.BuffersGrow (s t : State) : Prop := ∀ d, (s.chan d).buf <+: (t.chan d).buf

theorem State.BuffersGrow.of_ch {s t : State} (hch : t.ch = s.ch) : s.BuffersGrow t := fun d => by
  rw [State.chan_congr hch]

/-- After a write of one record, a channel is that record or is as it was. -/
theorem State.chan_setChan_cases (s : State) (d : Nat) (c : Channel) (e : Nat) :
    (e = d ∧ (s.setChan d c).chan e = c) ∨ (s.setChan d c).chan e = s.chan e := by
  rw [State.chan_setChan]
  split
  next h => exact .inl ⟨h.1.symm, rfl⟩
  next => exact .inr rfl

/-- A channel that keeps its record keeps its buffer. -/
theorem buf_prefix_of_eq {c c' : Channel} (h : c' = c) : c.buf <+: c'.buf := h ▸ List.prefix_rfl

/-- A write that keeps the bytes of its channel in front. -/
theorem State.BuffersGrow.of_set {s t : State} {d : Nat} {c : Channel} (hch : t.ch = s.ch.set d c)
    (hbuf : (s.chan d).buf <+: c.buf) : s.BuffersGrow t := by
  intro e
  rw [State.chan_congr (s := s.setChan d c) hch]
  rcases s.chan_setChan_cases d c e with ⟨rfl, h⟩ | h <;> rw [h]
  exact hbuf

/-- Closing keeps the buffer (43_mux_control.md R177). -/
theorem State.BuffersGrow.of_closed {s t : State} (h : ∀ e, t.chan e = s.chan e ∨ t.chan e = closedChannel (s.chan e)) :
    s.BuffersGrow t := by
  intro e
  rcases h e with h | h <;> rw [h]
  exact List.prefix_rfl

theorem State.closeWith_buffersGrow (s : State) (d : Nat) (k : EventKind) (a : Byte) :
    s.BuffersGrow (s.closeWith d k a) := .of_closed (s.chan_closeWith_cases d k a)

/-! ### Timers and received frames -/

theorem State.timerExpired_buffersGrow (s : State) (d : Nat) : s.BuffersGrow (s.timerExpired d) := by
  unfold State.timerExpired
  split
  · exact .of_ch rfl
  split
  · split
    · exact .of_set (d := d) rfl List.prefix_rfl
    · exact s.closeWith_buffersGrow d _ _
  · split
    · exact .of_set (d := d) rfl List.prefix_rfl
    · exact s.closeWith_buffersGrow d _ _
  · exact .of_ch rfl
  · exact .of_ch rfl

/-- A SABM opens a Closed channel with an empty buffer, and touches no other buffer (43_mux_control.md R180 to R183). -/
theorem State.rxSabmRule_buffers (s : State) (d : Nat) (pf : Bool) (e : Nat) :
    (s.chan e).buf <+: ((s.rxSabmRule d pf).chan e).buf ∨
      (d = e ∧ (s.chan e).state = .closed ∧
        (s.rxSabmRule d pf).chan e = remotelyOpenedChannel (s.chan e)) := by
  unfold State.rxSabmRule
  split
  next hclosed =>
    split
    · rcases s.chan_setChan_cases d (remotelyOpenedChannel (s.chan d)) e with ⟨rfl, hnew⟩ | hsame
      · exact .inr ⟨rfl, hclosed, hnew⟩
      · exact .inl (buf_prefix_of_eq hsame)
    · exact .inl List.prefix_rfl
  · exact .inl (State.BuffersGrow.of_set (c := openedChannel (s.chan d)) rfl List.prefix_rfl e)
  · exact .inl List.prefix_rfl
  · exact .inl List.prefix_rfl

theorem State.rxUaRule_buffersGrow (s : State) (d : Nat) : s.BuffersGrow (s.rxUaRule d) := by
  unfold State.rxUaRule
  split
  · exact .of_ch rfl
  · exact .of_set (d := d) rfl List.prefix_rfl
  · exact .of_ch rfl
  · exact s.closeWith_buffersGrow d _ _

theorem State.rxDmRule_buffersGrow (s : State) (d : Nat) : s.BuffersGrow (s.rxDmRule d) := by
  unfold State.rxDmRule
  split
  · exact .of_ch rfl
  all_goals exact s.closeWith_buffersGrow d _ _

theorem State.rxDiscRule_buffersGrow (s : State) (d : Nat) (pf : Bool) : s.BuffersGrow (s.rxDiscRule d pf) := by
  unfold State.rxDiscRule
  split
  · exact .of_ch rfl
  all_goals exact (s.sendUa d pf).closeWith_buffersGrow d _ _

/-- A payload joins the end of its channel's buffer, or is dropped whole (44_data_path.md R217 to R220). -/
theorem State.rxDataRule_buffersGrow (s : State) (d : Nat) (p : List Byte) : s.BuffersGrow (s.rxDataRule d p) := by
  unfold State.rxDataRule
  split
  · exact .of_ch rfl
  split
  · unfold State.rxCtrlRule
    split <;> exact .of_ch rfl
  split
  · exact .of_ch rfl
  split
  · exact .of_set (d := d) rfl List.prefix_rfl
  · exact .of_set (d := d) rfl (List.prefix_append _ _)

/-- A received frame empties a buffer only as a SABM that opens the channel. -/
theorem FrameEffect.buffers {s t : State} {f : Instr} (h : FrameEffect s f t) (e : Nat) :
    (s.chan e).buf <+: (t.chan e).buf ∨
      ((∃ (d : Dlci) (cr pf : Bool), d.toNat = e ∧ f = .rxSabm d cr pf []) ∧ (s.chan e).state = .closed ∧
        t.chan e = remotelyOpenedChannel (s.chan e)) := by
  have hgood := s.chan_goodFrame e
  rw [← hgood]
  cases h with
  | ignored => exact .inl (by simp)
  | failed _ k => exact .inl (by simp)
  | sabm d cr pf =>
    refine (s.goodFrame.rxSabmRule_buffers d.toNat pf e).imp_right ?_
    rintro ⟨hd, hclosed, hopened⟩
    exact ⟨⟨d, cr, pf, hd, rfl⟩, hclosed, hopened⟩
  | ua d => exact .inl (s.goodFrame.rxUaRule_buffersGrow d.toNat e)
  | dm d => exact .inl (s.goodFrame.rxDmRule_buffersGrow d.toNat e)
  | disc d _ pf => exact .inl (s.goodFrame.rxDiscRule_buffersGrow d.toNat pf e)
  | data _ d p => exact .inl (s.goodFrame.rxDataRule_buffersGrow d.toNat p e)

/-! ### Commands -/

/-- What a command may do to a buffer besides growing it: READ takes from its front, and TEARDOWN, RESET and the OPEN
that allocates the channel empty it (10_state.md R37). -/
theorem CommandEffect.buffers {s t : State} {i : Instr} (h : CommandEffect s i t) (e : Nat) :
    (s.chan e).buf <+: (t.chan e).buf ∨
      ((∃ (d : Dlci) (n : Arg) (data : List Byte), d.toNat = e ∧ i = .read d n data) ∧
        (t.chan e).buf <:+ (s.chan e).buf) ∨
      ((t.chan e).buf = [] ∧ ((∃ data, i = .teardown 0 0 data) ∨ i = .reset ∨
        ((∃ data, i = .openCh 0 0 data) ∧ t.reply = .command .ok (.dlci (BitVec.ofNat 6 e)) ∧
          (s.chan e).state = .closed ∧ (t.chan e).state = .opening))) := by
  cases h with
  | answered => exact .inl List.prefix_rfl
  | started => exact .inl (State.BuffersGrow.of_set (c := openingChannel (s.chan 0)) rfl List.prefix_rfl e)
  | allocated data d _ _ hlowest =>
    obtain ⟨_, _, hclosed, _⟩ := (s.lowestClosed_some d).mp hlowest
    rcases s.chan_setChan_cases d (emptiedChannel (openingChannel (s.chan d))) e with ⟨rfl, hnew⟩ | hsame
    · have hopening := congrArg Channel.state hnew
      exact .inr (.inr ⟨congrArg Channel.buf hnew, .inr (.inr ⟨⟨data, rfl⟩, rfl, hclosed, hopening⟩)⟩)
    · exact .inl (buf_prefix_of_eq hsame)
  | closing d =>
    exact .inl (State.BuffersGrow.of_set (c := closingChannel (s.chan d.toNat)) rfl List.prefix_rfl e)
  | timedOut d => exact .inl (s.timerExpired_buffersGrow d.toNat e)
  | linkLost =>
    refine .inl (State.BuffersGrow.of_closed (t := s.linkLost) (fun d => ?_) e)
    have hlost := s.chan_linkLost d
    split at hlost
    · exact .inr hlost
    · exact .inl hlost
  | tornDown data =>
    have htorn := s.chan_tornDown e
    split at htorn
    · exact .inr (.inr ⟨congrArg Channel.buf htorn, .inl ⟨data, rfl⟩⟩)
    · exact .inl (buf_prefix_of_eq htorn)
  | wrote d data =>
    obtain ⟨_, _, _, hch⟩ := s.sendPieces_kept d.toNat data
    exact .inl (State.BuffersGrow.of_ch hch e)
  | read d n data k =>
    rcases s.chan_setChan_cases d.toNat { s.chan d.toNat with buf := (s.chan d.toNat).buf.drop k } e with
      ⟨rfl, hnew⟩ | hsame
    · have hrest : (s.chan d.toNat).buf.drop k <:+ (s.chan d.toNat).buf := List.drop_suffix _ _
      exact .inr (.inl ⟨⟨d, n, data, rfl, rfl⟩, congrArg Channel.buf hnew ▸ hrest⟩)
    · exact .inl (buf_prefix_of_eq hsame)
  | sentControl => exact .inl List.prefix_rfl
  | cleared =>
    have hbuf := congrArg Channel.buf (s.chan_clearStatistics e)
    exact .inl (hbuf ▸ List.prefix_rfl)
  | popped => exact .inl List.prefix_rfl
  | resetDone => exact .inr (.inr ⟨congrArg Channel.buf (s.chan_afterReset e), .inr (.inl rfl)⟩)

/-- Settles O27: each operation by what it does to a record. A byte that completes a SABM does what the SABM does. -/
theorem buffersKeepArrivalOrder : Obligations.BuffersKeepArrivalOrder := by
  intro i s t h d
  have opened : ∀ {f : Instr}, s.completes i f →
      ((∃ (e : Dlci) (cr pf : Bool), e.toNat = d ∧ f = .rxSabm e cr pf []) ∧ (s.chan d).state = .closed ∧
        t.chan d = remotelyOpenedChannel (s.chan d)) →
      (t.chan d).buf = [] ∧ (∃ (e : Dlci) (cr pf : Bool), e.toNat = d ∧ s.completes i (.rxSabm e cr pf [])) ∧
        (s.chan d).state = .closed ∧ (t.chan d).state = .opened ∧ (t.chan d).remote = true := by
    rintro f hf ⟨⟨e, cr, pf, he, rfl⟩, hclosed, hnew⟩
    rw [hnew]
    exact ⟨rfl, ⟨e, cr, pf, he, hf⟩, hclosed, rfl, rfl⟩
  cases exec_effect h with
  | command h =>
    rcases h.buffers d with hgrows | hread | ⟨hempty, htear | hreset | hopen⟩
    · exact .inl hgrows
    · exact .inr (.inl hread)
    · exact .inr (.inr ⟨hempty, .inl htear⟩)
    · exact .inr (.inr ⟨hempty, .inr (.inl hreset)⟩)
    · exact .inr (.inr ⟨hempty, .inr (.inr (.inl hopen))⟩)
  | frame h =>
    rcases h.buffers d with hgrows | hsabm
    · exact .inl hgrows
    · obtain ⟨hempty, hopened⟩ := opened (.inl rfl) hsabm
      exact .inr (.inr ⟨hempty, .inr (.inr (.inr hopened))⟩)
  | listened b h => exact .inl (by rw [h.2]; exact List.prefix_rfl)
  | erred b h =>
    obtain ⟨k, h⟩ := h
    have hch : t.ch = s.ch := by rw [h]; exact s.frameError_ch k
    exact .inl (State.BuffersGrow.of_ch hch d)
  | completed b f dec hc h =>
    rcases h.buffers d with hgrows | hsabm
    · exact .inl hgrows
    · obtain ⟨hempty, hopened⟩ := opened hc hsabm
      exact .inr (.inr ⟨hempty, .inr (.inr (.inr hopened))⟩)

end Sys2Proof.Machine

/-! The decoder's frame, and progress: every operation that a port can present answers a next state (20_memory.md R52,
42_decoder.md R155, R156, 60_exceptions.md R252). -/

namespace Sys2Proof.Machine

/-! ### Which operations move the decoder (42_decoder.md R155, R156) -/

/-- The commands that move the decoder clear it. -/
theorem CommandEffect.dec_cleared {s t : State} {i : Instr} (h : CommandEffect s i t) (hmoved : t.dec ≠ s.dec) :
    t.dec = Decoder.reset ∧ (i = .reset ∨ (∃ data, i = .linkdown 0 0 data) ∨ ∃ data, i = .teardown 0 0 data) := by
  cases h with
  | linkLost data => exact ⟨rfl, .inr (.inl ⟨data, rfl⟩)⟩
  | tornDown data => exact ⟨rfl, .inr (.inr ⟨data, rfl⟩)⟩
  | resetDone => exact ⟨rfl, .inl rfl⟩
  | timedOut d => exact absurd (s.timerExpired_kept d.toNat).1 hmoved
  | wrote d data => exact absurd (s.sendPieces_kept d.toNat data).1 hmoved
  | _ => exact absurd rfl hmoved

/-- Settles O23: a received frame's own rule leaves the decoder, and the commands that move it clear it. -/
theorem onlyReceivedBytesAndLossMoveTheDecoder : Obligations.OnlyReceivedBytesAndLossMoveTheDecoder := by
  intro i s t h hmoved
  cases exec_effect h with
  | command h => exact .inr (h.dec_cleared hmoved)
  | frame h => exact absurd h.kept.1 hmoved
  | listened b => exact .inl ⟨b, rfl⟩
  | erred b => exact .inl ⟨b, rfl⟩
  | completed b => exact .inl ⟨b, rfl⟩

/-! ### Progress of the receive port -/

/-- A received frame always answers: each of its checks that fails is a frame error, not a stop (42_decoder.md R152). -/
theorem decodeFrame_progress (a c : Byte) (p : List Byte) (s : State) : ∃ t, exec (decodeFrame a c p) s = .next t := by
  unfold decodeFrame
  cases frameTypeOf c <;> exact ⟨_, rfl⟩

theorem State.validate_progress (s : State) (hdr p : List Byte) (f : Byte) : ∃ t, s.validate hdr p f = .next t := by
  rcases s.validate_cases hdr p f with ⟨k, herror⟩ | hframe
  · exact ⟨_, herror⟩
  · rw [hframe]
    exact decodeFrame_progress ..

theorem State.parseAdvanced_progress (s : State) (body : List Byte) : ∃ t, s.parseAdvanced body = .next t := by
  rcases s.parseAdvanced_cases body with ⟨k, herror⟩ | ⟨a, c, p, hframe⟩
  · exact ⟨_, herror⟩
  · rw [hframe]
    exact decodeFrame_progress ..

/-- Basic mode stops in BODY and ESC only, which are not its states (10_state.md R38). -/
theorem State.basicStep_progress (s : State) (b : Byte) (hd : dstateOfMode .basic s.dec.dstate = true) :
    ∃ t, s.basicStep b = .next t := by
  unfold State.basicStep
  cases hdstate : s.dec.dstate with
  | body => rw [hdstate] at hd; cases hd
  | esc => rw [hdstate] at hd; cases hd
  | close =>
    simp only
    split
    · exact State.validate_progress ..
    · exact ⟨_, rfl⟩
  | _ => exact ⟨_, rfl⟩

/-- Advanced mode runs in HUNT, BODY and ESC and stops elsewhere (10_state.md R38). -/
theorem State.advancedStep_progress (s : State) (b : Byte) (hd : dstateOfMode .advanced s.dec.dstate = true) :
    ∃ t, s.advancedStep b = .next t := by
  unfold State.advancedStep
  cases hdstate : s.dec.dstate with
  | hunt => exact ⟨_, rfl⟩
  | body =>
    simp only
    split
    · split
      · exact ⟨_, rfl⟩
      · exact State.parseAdvanced_progress ..
    · split <;> exact ⟨_, rfl⟩
  | esc =>
    simp only
    split <;> exact ⟨_, rfl⟩
  | _ => rw [hdstate] at hd; cases hd

theorem execRxByte_progress (b : Byte) (s : State) (hd : dstateOfMode s.cfg.mode s.dec.dstate = true) :
    ∃ t, execRxByte b s = .next t := by
  by_cases hup : s.link = .up
  · cases hmode : s.cfg.mode with
    | basic =>
      rw [execRxByte_basic b s hup hmode]
      exact State.basicStep_progress _ b (hmode ▸ hd)
    | advanced =>
      rw [execRxByte_advanced b s hup hmode]
      exact State.advancedStep_progress _ b (hmode ▸ hd)
  · exact ⟨_, execRxByte_ignored b s hup⟩

/-! ### Progress of every operation -/

/-- A check of a command chooses between two answers. -/
theorem ite_progress {c : Prop} [Decidable c] {s : State} {r : Result} (h : ∃ t, r = .next t) :
    ∃ t, (if c then .next s else r) = .next t := by
  split
  · exact ⟨s, rfl⟩
  · exact h

/-- OPEN answers whether a channel is free or not (43_mux_control.md R172). -/
theorem execOpen_progress (d : Dlci) (n : Arg) (x : List Byte) (s : State) : ∃ t, execOpen d n x s = .next t := by
  refine ite_progress (ite_progress (ite_progress ?_))
  cases s.lowestClosed <;> exact ⟨_, rfl⟩

theorem execEvPop_progress (s : State) : ∃ t, execEvPop s = .next t := by
  unfold execEvPop
  split <;> exact ⟨_, rfl⟩

/-- An operation stops only as RXBYTE in a DSTATE of the other mode or as RESET with a configuration out of range
(10_state.md R38, 70_reset_and_hazards.md R272). -/
theorem exec_progress (i : Instr) (s : State) (hd : dstateOfMode s.cfg.mode s.dec.dstate = true)
    (hreset : i = .reset → configInRange s.design s.pins = true) : ∃ t, exec i s = .next t := by
  cases i with
  | nop => exact ite_progress ⟨_, rfl⟩
  | start => exact ite_progress (ite_progress (ite_progress ⟨_, rfl⟩))
  | openCh d n x => exact execOpen_progress d n x s
  | closeCh => exact ite_progress (ite_progress (ite_progress (ite_progress (ite_progress (ite_progress ⟨_, rfl⟩)))))
  | write => exact ite_progress (ite_progress (ite_progress (ite_progress ⟨_, rfl⟩)))
  | read => exact ite_progress (ite_progress ⟨_, rfl⟩)
  | txctrl => exact ite_progress (ite_progress (ite_progress (ite_progress (ite_progress ⟨_, rfl⟩))))
  | teardown => exact ite_progress (ite_progress ⟨_, rfl⟩)
  | timeout => exact ite_progress (ite_progress ⟨_, rfl⟩)
  | linkdown => exact ite_progress (ite_progress ⟨_, rfl⟩)
  | clrstat => exact ite_progress ⟨_, rfl⟩
  | rxByte b => exact execRxByte_progress b s hd
  | evPop => exact execEvPop_progress s
  | reset => exact ⟨s.afterReset, if_pos (hreset rfl)⟩
  | _ => exact ⟨_, rfl⟩

/-! ### Progress of a step -/

/-- No command word is RESET, which has a port of its own (30_encoding.md R84, R91). -/
theorem decodeCommand_ne_reset (w : CommandWord) (x : List Byte) : decodeCommand w x ≠ .reset := by
  unfold decodeCommand
  split <;> exact nofun

/-- A step takes an event that no port carries as what the environment does. -/
theorem step_of_environment {s : State} {e : Input} {rest : List Input} (hpending : s.pending = e :: rest)
    (hnone : e.encoded = none) : step s = environmentEvent e { s with pending := rest } := by
  simp only [step, State.fetch, hpending, hnone]

/-- A step takes just the first input: no operation touches the inputs still to come (20_memory.md R52). -/
theorem step_pending {s t : State} {e : Input} {rest : List Input} (hpending : s.pending = e :: rest)
    (h : step s = .next t) : t.pending = rest := by
  rcases step_cases s t h with ⟨hidle, _⟩ | ⟨_, rest', _, i, htaken, _, _, hexec⟩ | ⟨_, rest', htaken, rfl⟩ |
    ⟨_, rest', htaken, _, rfl⟩
  · cases hidle.symm.trans hpending
  · cases htaken.symm.trans hpending
    obtain ⟨_, _, hkept, _⟩ := exec_fixed hexec
    exact hkept
  all_goals cases htaken.symm.trans hpending; rfl

/-- An input within the contract is answered, if the decoder is in a DSTATE of its mode. -/
theorem step_progress {s : State} {e : Input} {rest : List Input} (hd : dstateOfMode s.cfg.mode s.dec.dstate = true)
    (hpending : s.pending = e :: rest) (hcontract : s.inputInContract e = true) : ∃ t, step s = .next t := by
  have port : ∀ {bits i}, e.encoded = some bits → decode bits = .ok i →
      (i = .reset → configInRange s.design s.pins = true) → ∃ t, step s = .next t := by
    intro bits i hbits hdecode hreset
    rw [stepRunsTheDecodedInput s e rest bits i hpending hbits hdecode]
    exact exec_progress i { s with pending := rest } hd hreset
  cases e with
  | command w x => exact port rfl (if_pos hcontract) (absurd · (decodeCommand_ne_reset w x))
  | rxByte => exact port rfl rfl nofun
  | regRead => exact port rfl rfl nofun
  | evPop => exact port rfl rfl nofun
  | reset => exact port rfl rfl fun _ => hcontract
  | setPins => exact ⟨_, step_of_environment hpending rfl⟩
  | foreignWrite =>
    have hidle : ¬ s.writing = true := by simpa [State.inputInContract] using hcontract
    exact ⟨_, (step_of_environment hpending rfl).trans (if_neg hidle)⟩
  | txRefused => cases hcontract

/-- Settles O17: progress needs the decoder's part of the invariant; what the step answers keeps the whole of it. -/
theorem inputsInContractNeverStopTheBlock : Obligations.InputsInContractNeverStopTheBlock := by
  intro s e rest hs hpending hcontract
  obtain ⟨hd, _⟩ := hs.decoder
  obtain ⟨t, ht⟩ := step_progress hd hpending hcontract
  exact ⟨t, ht, everyStepKeepsTheInvariant s t hs ht, step_pending hpending ht⟩

end Sys2Proof.Machine

/-! Decoding and encoding: on what the ports can present each undoes the other (30_encoding.md R72, R74, R80, R84, R85).
The bits of an instruction are a command word, a received frame, or what a port of its own presents. -/

namespace Sys2Proof

/-! ### Commands (30_encoding.md R84, R85) -/

theorem decode_command {w : CommandWord} {data : List Byte} (hfits : dataFits data = true) :
    decode (.command w data) = .ok (decodeCommand w data) := if_pos hfits

/-- What an accepted command word was accepted as. -/
theorem decode_command_ok {w : CommandWord} {data : List Byte} {i : Instr} (h : decode (.command w data) = .ok i) :
    dataFits data = true ∧ decodeCommand w data = i := by
  simp only [decode] at h
  split at h
  next hfits => cases h; exact ⟨hfits, rfl⟩
  next => cases h

/-- An instruction that is a command is well formed where its data operand fits the command port. -/
theorem Instr.wellFormed_of_command {i : Instr} {w : CommandWord} {data : List Byte}
    (hbits : encode i = .command w data) : i.wellFormed = dataFits data := by
  cases i <;> cases hbits <;> rfl

/-- The OP field tells the sixteen commands apart, and the other two fields are their operands. -/
theorem decodeCommand_of_encode {i : Instr} {w : CommandWord} {data : List Byte}
    (hbits : encode i = .command w data) : decodeCommand w data = i := by
  cases i <;> cases hbits
  all_goals simp [decodeCommand]

/-- A command word is its operation and its two operands. -/
theorem commandWord_of_op {w : CommandWord} {op : BitVec 4} (hop : (wordOp w).toNat = op.toNat) :
    commandWord op (wordDlci w) (wordArg w) = w := by
  rw [← BitVec.eq_of_toNat_eq hop, commandWord_fields]

/-- Each OP value has its own command, 15 being the last. -/
theorem encode_decodeCommand (w : CommandWord) (data : List Byte) :
    encode (decodeCommand w data) = .command w data := by
  have hword : ∀ op : BitVec 4, (wordOp w).toNat = op.toNat →
      Encoded.command (commandWord op (wordDlci w) (wordArg w)) data = .command w data :=
    fun op hop => congrArg (Encoded.command · data) (commandWord_of_op hop)
  have hlast := (wordOp w).isLt
  unfold decodeCommand
  split
  case h_16 =>
    have hop : (wordOp w).toNat = 15 := by simp only [imp_false] at *; omega
    exact hword 0xF hop
  all_goals next hop => exact hword _ hop

/-! ### Received frames (30_encoding.md R72, R74, R80) -/

theorem decode_frame {a c : Byte} {payload : List Byte} (hext : extensionBit a = true)
    (hfits : payloadFits payload = true) : decode (.frame a c payload) = .ok (decodeFrame a c payload) := by
  simp only [decode, hext, hfits, Bool.true_eq_false, ↓reduceIte]

/-- What an accepted frame was accepted as. -/
theorem decode_frame_ok {a c : Byte} {payload : List Byte} {i : Instr} (h : decode (.frame a c payload) = .ok i) :
    extensionBit a = true ∧ payloadFits payload = true ∧ decodeFrame a c payload = i := by
  simp only [decode] at h
  split at h
  next => cases h
  next hext =>
    split at h
    next hfits => cases h; exact ⟨Bool.not_eq_false _ ▸ hext, hfits, rfl⟩
    next => cases h

/-- A reserved type is any control byte but those of the six types (30_encoding.md R80). -/
theorem frameTypeOf_reserved_iff (c : Byte) : frameTypeOf c = .reserved ↔ controlIsReserved c = true := by
  obtain ⟨_, _, _, _, _, _, hreserved⟩ := controlByte_fields c
  exact hreserved

/-- The bits of a well-formed received frame pass the decoder's two checks. -/
theorem Instr.frame_accepted_of_wellFormed {i : Instr} {a c : Byte} {payload : List Byte}
    (hbits : encode i = .frame a c payload) (hi : i.wellFormed = true) :
    extensionBit a = true ∧ payloadFits payload = true := by
  cases i <;> cases hbits
  case rxReserved => exact ⟨extensionBit_addressByte _ _, ((Bool.and_eq_true _ _).mp hi).2⟩
  all_goals exact ⟨extensionBit_addressByte _ _, hi⟩

/-- The type of the control byte tells the seven frames apart, and the other fields are their operands. -/
theorem decodeFrame_of_encode {i : Instr} {a c : Byte} {payload : List Byte} (hbits : encode i = .frame a c payload)
    (hi : i.wellFormed = true) : decodeFrame a c payload = i := by
  cases i <;> cases hbits
  case rxReserved =>
    have htype := (frameTypeOf_reserved_iff _).mpr ((Bool.and_eq_true _ _).mp hi).1
    simp [decodeFrame, htype]
  all_goals simp [decodeFrame, frameTypeOf_controlByte, pollFinal_controlByte]

/-- A frame is made of its address and control fields, a reserved control byte being kept whole. -/
theorem encode_decodeFrame {a : Byte} (hext : extensionBit a = true) (c : Byte) (payload : List Byte) :
    encode (decodeFrame a c payload) = .frame a c payload := by
  have haddress := addressByte_fields a hext
  obtain ⟨hsabm, hua, hdm, hdisc, huih, hui, _⟩ := controlByte_fields c
  unfold decodeFrame
  cases htype : frameTypeOf c with
  | sabm => simp only [encode, haddress, hsabm htype]
  | ua => simp only [encode, haddress, hua htype]
  | dm => simp only [encode, haddress, hdm htype]
  | disc => simp only [encode, haddress, hdisc htype]
  | uih => simp only [encode, haddress, huih htype]
  | ui => simp only [encode, haddress, hui htype]
  | reserved => simp only [encode, haddress]

theorem wellFormed_decodeFrame (a c : Byte) {payload : List Byte} (hfits : payloadFits payload = true) :
    (decodeFrame a c payload).wellFormed = true := by
  unfold decodeFrame
  cases htype : frameTypeOf c with
  | reserved => simp only [Instr.wellFormed, (frameTypeOf_reserved_iff c).mp htype, hfits, Bool.and_self]
  | _ => exact hfits

/-! ### Every port -/

/-- Settles O1, by what the bits of the instruction are: a command, a frame, or a port's own. -/
theorem decodeOfEncodeIsTheInstruction : Obligations.DecodeOfEncodeIsTheInstruction := by
  intro i hi
  cases hbits : encode i with
  | command w data =>
    have hfits : dataFits data = true := (Instr.wellFormed_of_command hbits).symm.trans hi
    rw [decode_command hfits, decodeCommand_of_encode hbits]
  | frame a c payload =>
    obtain ⟨hext, hfits⟩ := Instr.frame_accepted_of_wellFormed hbits hi
    rw [decode_frame hext hfits, decodeFrame_of_encode hbits hi]
  | _ =>
    cases i <;> cases hbits
    rfl

/-- Settles O2, by what the bits are. -/
theorem encodeOfDecodeIsTheBits : Obligations.EncodeOfDecodeIsTheBits := by
  intro e i h
  cases e with
  | command w data =>
    obtain ⟨hfits, rfl⟩ := decode_command_ok h
    have hbits := encode_decodeCommand w data
    exact ⟨(Instr.wellFormed_of_command hbits).trans hfits, hbits⟩
  | frame a c payload =>
    obtain ⟨hext, hfits, rfl⟩ := decode_frame_ok h
    exact ⟨wellFormed_decodeFrame a c hfits, encode_decodeFrame hext c payload⟩
  | _ => cases h; exact ⟨rfl, rfl⟩

/-- Settles O3: the decoder evaluates to these instructions. -/
theorem wordsWrittenOutDecode : Obligations.WordsWrittenOutDecode :=
  ⟨rfl, rfl, rfl, rfl, rfl, rfl⟩

end Sys2Proof

/-! Byte stuffing (30_encoding.md R78, R79): a stuffed body holds no flag, and the advanced-mode decoder undoes it. -/

namespace Sys2Proof.Machine

/-! ### The stuffed bytes -/

theorem flag_not_mem_stuffByte (b : Byte) : 0x7E#8 ∉ stuffByte b := by
  rcases stuffByte_cases b with ⟨hflag, _, h⟩ | ⟨x, h, _, hflag⟩ <;> rw [h]
  · exact mt List.mem_singleton.mp (Ne.symm hflag)
  · exact List.not_mem_cons_of_ne_of_not_mem (by decide) (mt List.mem_singleton.mp (Ne.symm hflag))

theorem flag_not_mem_stuff (bytes : List Byte) : 0x7E#8 ∉ stuff bytes := by
  intro h
  obtain ⟨b, _, hb⟩ := List.mem_flatMap.mp h
  exact flag_not_mem_stuffByte b hb

/-- An escaped byte takes two places. -/
theorem stuffByte_length (b : Byte) : (stuffByte b).length = if b == 0x7E#8 || b == 0x7D#8 then 2 else 1 := by
  by_cases hflag : b = 0x7E#8
  · subst hflag; rfl
  by_cases hesc : b = 0x7D#8
  · subst hesc; rfl
  · simp [stuffByte, flagByte, escapeByte, hflag, hesc]

theorem stuff_length (bytes : List Byte) :
    (stuff bytes).length = bytes.length + (bytes.filter (fun b => b == 0x7E#8 || b == 0x7D#8)).length := by
  induction bytes with
  | nil => rfl
  | cons b bs ih =>
    rw [stuff_cons, List.length_append, stuffByte_length, ih, List.filter_cons]
    split
    · rw [List.length_cons, List.length_cons]; omega
    · rw [List.length_cons]; omega

/-! ### Delivering bytes -/

/-- A byte that is answered leaves the rest of the bytes to its next state. -/
theorem feed_cons {b : Byte} {bs : List Byte} {s t : State} (h : exec (.rxByte b) s = .next t) :
    feed (b :: bs) s = feed bs t := by
  simp only [feed, h]

/-- Bytes that are answered leave those behind them to their next state. -/
theorem feed_append {xs ys : List Byte} {s t : State} (h : feed xs s = .next t) : feed (xs ++ ys) s = feed ys t := by
  induction xs generalizing s with
  | nil => cases h; rfl
  | cons x xs ih =>
    rw [List.cons_append]
    cases hx : exec (.rxByte x) s with
    | next u =>
      rw [feed_cons hx] at h ⊢
      exact ih h
    | _ => simp only [feed, hx] at h; cases h

/-! ### The decoder in BODY (42_decoder.md R140 to R142) -/

/-- `s` after these bytes have joined the body: DSTATE is BODY, and a byte has no answer. -/
def State.joined (s : State) (bytes : List Byte) : State :=
  { s with dec := { s.dec with dbody := s.dec.dbody ++ bytes, dstate := .body }, reply := .nothing }

/-- From BODY with no answer standing, only the body moves. -/
theorem State.joined_eq {s : State} (hbody : s.dec.dstate = .body) (hreply : s.reply = .nothing) (bytes : List Byte) :
    s.joined bytes = { s with dec := { s.dec with dbody := s.dec.dbody ++ bytes } } := by
  simp only [State.joined, ← hbody, ← hreply]

theorem State.joined_joined (s : State) (xs ys : List Byte) : (s.joined xs).joined ys = s.joined (xs ++ ys) := by
  simp only [State.joined, List.append_assoc]

/-- A body with room takes the byte. -/
theorem State.appendBody_of_room {s : State} (hroom : s.dec.dbody.length < maxBody s.cfg) (b : Byte) :
    (s.withReply .nothing).appendBody b = s.joined [b] :=
  if_neg (by rw [List.length_append, List.length_singleton]; exact Nat.not_lt.mpr hroom)

/-- A byte that is neither the flag nor the escape joins the body as it is. -/
theorem execRxByte_plain {s : State} {b : Byte} (hup : s.link = .up) (hmode : s.cfg.mode = .advanced)
    (hbody : s.dec.dstate = .body) (hroom : s.dec.dbody.length < maxBody s.cfg) (hflag : b ≠ flagByte .advanced)
    (hesc : b ≠ escapeByte) : execRxByte b s = .next (s.joined [b]) := by
  rw [execRxByte_advanced b s hup hmode, ← State.appendBody_of_room hroom]
  simp only [State.advancedStep, State.withReply_dec, hbody, hflag, hesc, ↓reduceIte]

/-- The escape waits for the byte behind it. -/
theorem execRxByte_escape {s : State} (hup : s.link = .up) (hmode : s.cfg.mode = .advanced)
    (hbody : s.dec.dstate = .body) : execRxByte escapeByte s = .next ((s.withReply .nothing).goto .esc) := by
  have hflag : escapeByte ≠ flagByte .advanced := by decide
  rw [execRxByte_advanced escapeByte s hup hmode]
  simp only [State.advancedStep, State.withReply_dec, hbody, hflag, ↓reduceIte]

/-- The byte behind an escape joins the body unmasked. -/
theorem execRxByte_escaped {s : State} {b : Byte} (hup : s.link = .up) (hmode : s.cfg.mode = .advanced)
    (hesc : s.dec.dstate = .esc) (hroom : s.dec.dbody.length < maxBody s.cfg) (hflag : b ≠ flagByte .advanced) :
    execRxByte b s = .next (s.joined [b ^^^ escapeMask]) := by
  rw [execRxByte_advanced b s hup hmode, ← State.appendBody_of_room hroom]
  simp only [State.advancedStep, State.withReply_dec, hesc, hflag, ↓reduceIte]

/-- The stuffed form of one byte joins the byte to the body: as it is, or by way of ESC. -/
theorem feed_stuffByte {s : State} (hup : s.link = .up) (hmode : s.cfg.mode = .advanced)
    (hbody : s.dec.dstate = .body) (b : Byte) (hroom : s.dec.dbody.length < maxBody s.cfg) :
    feed (stuffByte b) s = .next (s.joined [b]) := by
  rcases stuffByte_cases b with ⟨hflag, hesc, h⟩ | ⟨x, h, rfl, hflag⟩ <;> rw [h]
  · exact feed_cons (execRxByte_plain hup hmode hbody hroom hflag hesc)
  · have hescape := feed_cons (bs := [x]) (execRxByte_escape hup hmode hbody)
    exact hescape.trans (feed_cons (execRxByte_escaped hup hmode rfl hroom hflag))

/-- The stuffed form of a sequence joins the sequence to the body (30_encoding.md R79). -/
theorem feed_stuff {s : State} (hup : s.link = .up) (hmode : s.cfg.mode = .advanced) (hbody : s.dec.dstate = .body)
    (hreply : s.reply = .nothing) (bytes : List Byte) (hroom : s.dec.dbody.length + bytes.length ≤ maxBody s.cfg) :
    feed (stuff bytes) s = .next (s.joined bytes) := by
  induction bytes generalizing s with
  | nil => rw [State.joined_eq hbody hreply, List.append_nil]; rfl
  | cons b bs ih =>
    rw [List.length_cons] at hroom
    have hfirst := feed_stuffByte hup hmode hbody b (by omega)
    have hrest : (s.joined [b]).dec.dbody.length + bs.length ≤ maxBody s.cfg := by
      simp only [State.joined, List.length_append, List.length_singleton]
      omega
    rw [stuff_cons, feed_append hfirst, ih (s := s.joined [b]) hup hmode rfl rfl hrest, State.joined_joined,
      List.singleton_append]

/-- Settles O6: a stuffed byte holds no flag, and the decoder in BODY takes it back to the byte. -/
theorem stuffedBytesHoldNoFlag : Obligations.StuffedBytesHoldNoFlag := by
  refine ⟨fun bytes => ⟨flag_not_mem_stuff bytes, stuff_length bytes⟩, ?_⟩
  intro s bytes hup hmode hbody hroom hreply
  rw [feed_stuff hup hmode hbody hreply bytes hroom, State.joined_eq hbody hreply]

end Sys2Proof.Machine

/-! Commands that are refused, and what a step does with what is not an operation of a port. -/

namespace Sys2Proof.Machine

/-- Settles O15: a move raises only legal records, EVPOP removes one, and RESET leaves none. -/
theorem everyStepKeepsEventsLegal : Obligations.EveryStepKeepsEventsLegal := by
  intro s t hs hstep
  exact step_keeps State.eventsLegal (fun _ _ _ h => h) (fun _ _ _ => exec_keeps_eventsLegal) s t hs hstep

/-! ### Statuses other than OK (30_encoding.md R88, 43_mux_control.md R170) -/

/-- A refusal leaves no trace: where this outcome answers a status other than OK, that answer is all that is new. -/
def State.RefusesOnly (s : State) (r : Result) : Prop :=
  ∀ (t : State) (st : Status) (v : ReturnValue), r = .next t → t.reply = .command st v → st ≠ .ok →
    t = s.answer st .nothing

theorem State.RefusesOnly.answer (s : State) (st : Status) : s.RefusesOnly (.next (s.answer st .nothing)) := by
  intro t st' v h hreply _
  cases h
  cases hreply
  rfl

/-- A check of a command that fails answers its status and nothing else. -/
theorem State.RefusesOnly.check {c : Prop} [Decidable c] {s : State} {st : Status} {r : Result}
    (hr : s.RefusesOnly r) : s.RefusesOnly (if c then .next (s.answer st .nothing) else r) := by
  split
  · exact .answer s st
  · exact hr

/-- A command that passes its checks answers OK. -/
theorem State.RefusesOnly.ok (s u : State) (v : ReturnValue) : s.RefusesOnly (.next (u.answer .ok v)) := by
  intro t st v' h hreply hne
  cases h
  cases hreply
  exact absurd rfl hne

/-- Where no status is answered, nothing is refused. -/
theorem State.RefusesOnly.of_reply {s : State} {r : Result}
    (hreply : ∀ t, r = .next t → ∀ st v, t.reply ≠ .command st v) : s.RefusesOnly r :=
  fun t st v h hst _ => absurd hst (hreply t h st v)

/-- OPEN is refused where no channel is free (43_mux_control.md R172). -/
theorem execOpen_refusesOnly (d : Dlci) (n : Arg) (x : List Byte) (s : State) : s.RefusesOnly (execOpen d n x s) := by
  refine .check (.check (.check ?_))
  cases s.lowestClosed with
  | none => exact .answer s .noFree
  | some e => exact .ok _ _ _

/-- A received frame has no answer. -/
theorem FrameEffect.reply {s t : State} {f : Instr} (h : FrameEffect s f t) : t.reply = .nothing := by
  cases h <;> rfl

/-- A received byte has no answer (30_encoding.md R92). -/
theorem execRxByte_reply {b : Byte} {s t : State} (h : execRxByte b s = .next t) : t.reply = .nothing := by
  rcases execRxByte_cases b s t h with ⟨_, hl⟩ | ⟨k, he⟩ | ⟨_, _, a, c, p, dec, hx⟩
  · rw [hl]
  · rw [he]
  · exact (decodeFrame_effect (hx.symm.trans h)).reply

/-- EVPOP and RESET answer no status (30_encoding.md R92). -/
theorem execEvPop_reply {s t : State} (h : execEvPop s = .next t) : ∃ valid r, t.reply = .event valid r := by
  unfold execEvPop at h
  split at h <;> cases h <;> exact ⟨_, _, rfl⟩

theorem execReset_reply {s t : State} (h : execReset s = .next t) : t.reply = .nothing := by
  unfold execReset at h
  split at h
  · cases h; rfl
  · cases h

/-- Every command refuses by its checks alone, and no other port answers a status. -/
theorem exec_refusesOnly (i : Instr) (s : State) : s.RefusesOnly (exec i s) := by
  have silent : ∀ {f : Instr}, (∀ t, exec f s = .next t → t.reply = .nothing) → s.RefusesOnly (exec f s) :=
    fun h => .of_reply fun t ht st v => by rw [h t ht]; exact nofun
  cases i with
  | nop => exact .check (.ok _ _ _)
  | start => exact .check (.check (.check (.ok _ _ _)))
  | openCh d n x => exact execOpen_refusesOnly d n x s
  | closeCh => exact .check (.check (.check (.check (.check (.check (.ok _ _ _))))))
  | write => exact .check (.check (.check (.check (.ok _ _ _))))
  | read => exact .check (.check (.ok _ _ _))
  | txctrl => exact .check (.check (.check (.check (.check (.ok _ _ _)))))
  | teardown => exact .check (.check (.ok _ _ _))
  | timeout => exact .check (.check (.ok _ _ _))
  | linkdown => exact .check (.check (.ok _ _ _))
  | clrstat => exact .check (.ok _ _ _)
  | reservedB => exact .answer s .illegal
  | reservedC => exact .answer s .illegal
  | reservedD => exact .answer s .illegal
  | reservedE => exact .answer s .illegal
  | reservedF => exact .answer s .illegal
  | rxByte => exact silent fun _ => execRxByte_reply
  | regRead => exact .of_reply fun t ht st v => by cases ht; exact nofun
  | evPop =>
    refine .of_reply fun t ht st v => ?_
    obtain ⟨valid, r, hreply⟩ := execEvPop_reply ht
    rw [hreply]
    exact nofun
  | reset => exact silent fun _ => execReset_reply
  | rxSabm | rxUa | rxDm | rxDisc | rxUih | rxUi | rxReserved => exact silent fun _ h => by cases h; rfl

/-- The codes of 30_encoding.md R88, each of its status alone. -/
theorem statusCode_eq_iff (st : Status) (code : BitVec 4) :
    statusCode st = code ↔
      (st, code) ∈ [(Status.ok, (0 : BitVec 4)), (.illegal, 1), (.link, 2), (.notStarted, 3), (.noFree, 4),
        (.badDlci, 5), (.state, 6), (.tooLong, 7)] := by
  revert code
  cases st <;> decide

/-- Settles O24: a refusal answers on the unchanged state, and the codes are a table. -/
theorem refusedCommandsChangeNothing : Obligations.RefusedCommandsChangeNothing :=
  ⟨fun i s t st v h hreply hne => exec_refusesOnly i s t st v h hreply hne, statusCode_eq_iff⟩

/-! ### Illegal encodings (30_encoding.md R86) -/

/-- The must-be-zero fields of R86 are what the first check of a command looks at. -/
theorem noOperands_of_illegal {d : Dlci} {n : Arg} (h : (!(d == 0 && n == 0)) = true) : noOperands d n = false :=
  (Bool.not_eq_true' _).mp h

theorem noArgument_of_illegal {n : Arg} (h : (!(n == 0)) = true) : noArgument n = false :=
  (Bool.not_eq_true' _).mp h

/-- An empty data operand reads as a type byte with bit 0 = 0. -/
theorem controlMessageLegal_eq (data : List Byte) : controlMessageLegal data = (data.headD 0).getLsbD 0 := by
  cases data <;> rfl

/-- TXCTRL answers ILLEGAL by its first check or by its second (44_data_path.md R212). -/
theorem execTxctrl_illegal {d : Dlci} {n : Arg} {data : List Byte} {s : State}
    (h : noOperands d n = false ∨ controlMessageLegal data = false) :
    execTxctrl d n data s = .next (s.answer .illegal .nothing) :=
  (ite_or ..).symm.trans (if_pos h)

/-- Settles O28: a reserved operation has no other outcome, and an illegal field fails a check that comes first. -/
theorem illegalEncodingsReturnIllegal : Obligations.IllegalEncodingsReturnIllegal := by
  intro i s h
  cases i with
  | nop => exact if_pos (noOperands_of_illegal h)
  | start => exact if_pos (noOperands_of_illegal h)
  | openCh => exact if_pos (noOperands_of_illegal h)
  | closeCh => exact if_pos (noArgument_of_illegal h)
  | write => exact if_pos (noArgument_of_illegal h)
  | txctrl d n data =>
    refine execTxctrl_illegal (((Bool.or_eq_true _ _).mp h).imp noOperands_of_illegal fun hdata => ?_)
    rw [controlMessageLegal_eq]
    exact (Bool.not_eq_true' _).mp hdata
  | teardown => exact if_pos (noOperands_of_illegal h)
  | timeout => exact if_pos (noArgument_of_illegal h)
  | linkdown => exact if_pos (noOperands_of_illegal h)
  | clrstat => exact if_pos (noOperands_of_illegal h)
  | reservedB | reservedC | reservedD | reservedE | reservedF => rfl
  | _ => cases h

/-! ### Steps that run no operation (20_memory.md R52) -/

/-- With nothing to take a step leaves the state (log entry 2). -/
theorem step_of_idle {s : State} (hpending : s.pending = []) : step s = .next s := by
  simp only [step, State.fetch, hpending]

/-- A step refuses bits that no port can present (log entry 11). -/
theorem step_of_reject {s : State} {e : Input} {rest : List Input} {bits : Encoded} {r : Reject}
    (hpending : s.pending = e :: rest) (hbits : e.encoded = some bits) (hreject : decode bits = .error r) :
    step s = .refused .inputNotPresentable := by
  simp only [step, State.fetch, hpending, hbits, hreject]

/-- A data operand of more than 65535 bytes is rejected (30_encoding.md R84). -/
theorem decode_command_tooLong (w : CommandWord) {data : List Byte} (hlong : 65535 < data.length) :
    decode (.command w data) = .error .dataOperandTooLong :=
  if_neg (by rw [dataFits, decide_eq_true_eq]; omega)

/-- Settles O19: the three events of the environment, a rejected operand, and the empty list. -/
theorem stepTakesEnvironmentEvents : Obligations.StepTakesEnvironmentEvents := by
  refine ⟨?_, ?_, ?_, ?_, ?_⟩
  · intro s pins rest hpending
    exact step_of_environment hpending rfl
  · intro s b rest hpending
    exact step_of_environment hpending rfl
  · intro s rest hpending
    exact step_of_environment hpending rfl
  · intro s w data rest hpending hlong
    exact step_of_reject hpending rfl (decode_command_tooLong w hlong)
  · intro s hpending
    exact step_of_idle hpending

end Sys2Proof.Machine

/-! The frame check sequence (40_crc.md): the printed table, and the residue form of the check. -/

namespace Sys2Proof.Machine

/-- 40_crc.md R107: each printed entry is R101's loop run from its index. -/
theorem crcTab_eq_map_crcShifts :
    crcTab = (List.range 256).map fun i => (crcShifts 8 (BitVec.ofNat 8 i)).toNat := by decide +kernel

theorem crcTabAt_eq_crcShifts (i : Byte) : crcTabAt i = crcShifts 8 i := by
  simp [crcTabAt, crcTab_eq_map_crcShifts, List.getD_eq_getElem?_getD, i.isLt]

/-- Settles O4: the loop starts from `c ^^^ b`, and the table holds what it gives from there. -/
theorem crcStepIsOneTableLookUp : Obligations.CrcStepIsOneTableLookUp := fun c b =>
  (crcTabAt_eq_crcShifts (c ^^^ b)).symm

theorem crcRegister_snoc (bytes : List Byte) (f : Byte) :
    crcRegister (bytes ++ [f]) = crcStep (crcRegister bytes) f :=
  crcRegister_append bytes [f]

/-- A register and its complement cancel to the index 0xFF, so the residue is the last entry of the table (R107). -/
theorem crcStep_complement (c : Byte) : crcStep c (c ^^^ 0xFF#8) = 0xCF#8 :=
  calc crcStep c (c ^^^ 0xFF#8)
    _ = crcTabAt (c ^^^ (c ^^^ 0xFF#8)) := crcStepIsOneTableLookUp c _
    _ = crcTabAt 0xFF#8 := by rw [← BitVec.xor_assoc, BitVec.xor_self, BitVec.zero_xor]
    _ = 0xCF#8 := by decide

theorem crcRegister_append_fcs (bytes : List Byte) : crcRegister (bytes ++ [fcs bytes]) = 0xCF#8 := by
  rw [crcRegister_snoc, fcs, crcStep_complement]

/-- Settles O5: the FCS leaves the residue, and no other byte can, since a step from one register is injective in its
byte. -/
theorem residueDecidesTheFcs : Obligations.ResidueDecidesTheFcs := by
  refine ⟨crcRegister_append_fcs, fun bytes f => ⟨?_, fun hresidue => ?_⟩⟩
  · rintro rfl
    exact crcRegister_append_fcs bytes
  · have hsame : crcRegister (bytes ++ [fcs bytes]) = crcRegister (bytes ++ [f]) :=
      (crcRegister_append_fcs bytes).trans hresidue.symm
    rw [crcRegister_snoc, crcRegister_snoc] at hsame
    exact crcStep_cancel (crcRegister bytes) (fcs bytes) f hsame

end Sys2Proof.Machine

/-! The receiver undoes the encoder (41_encoder.md R124): the bytes of a frame, delivered in either framing mode, end in
the operation the frame selects. -/

namespace Sys2Proof.Machine

/-! ### The state while a frame is received -/

/-- `s` while its decoder holds `dec`: a byte of a frame that is not its last moves nothing else and has no answer. -/
def State.holding (s : State) (dec : Decoder) : State := { s with dec := dec, reply := .nothing }

@[simp] theorem State.holding_dec (s : State) (dec : Decoder) : (s.holding dec).dec = dec := rfl

@[simp] theorem State.holding_cfg (s : State) (dec : Decoder) : (s.holding dec).cfg = s.cfg := rfl

@[simp] theorem State.holding_goto (s : State) (dec : Decoder) (d : DState) :
    (s.holding dec).goto d = s.holding { dec with dstate := d } := rfl

@[simp] theorem State.holding_joined (s : State) (dec : Decoder) (bytes : List Byte) :
    (s.holding dec).joined bytes = s.holding { dec with dbody := dec.dbody ++ bytes, dstate := .body } := rfl

/-- The last byte delivered decides the outcome. -/
theorem feed_singleton (b : Byte) (s : State) : feed [b] s = exec (.rxByte b) s := by
  simp only [feed]
  cases exec (.rxByte b) s <;> rfl

/-! ### The bytes between the flags (30_encoding.md R70, R71, R76) -/

/-- With its own FCS and an address byte of the encoder, a frame passes both checks of 42_decoder.md R152. -/
theorem State.validate_sent (s : State) (d : Dlci) (cr : Bool) (c : Byte) (tail payload : List Byte) :
    s.validate (addressByte d cr :: c :: tail) payload (fcs (covered (addressByte d cr :: c :: tail) c payload)) =
      exec (decodeFrame (addressByte d cr) c payload) s := by
  have hext : (addressByte d cr).getLsbD 0 = true := extensionBit_addressByte d cr
  rw [State.validate_eq, if_neg (not_not_intro rfl), if_neg (by rw [hext]; decide)]

theorem lenField_length_le (l : Nat) : (lenField l).length ≤ 2 := by
  unfold lenField
  split
  · exact Nat.le_succ 1
  · exact Nat.le_refl 2

/-- MAXBODY is what the longest frame needs (42_decoder.md R142). -/
theorem frameBody_length_le (cfg : Cfg) (d : Dlci) (cr : Bool) (c : Byte) (payload : List Byte) :
    (frameBody cfg d cr c payload).length ≤ payload.length + 5 := by
  have hlen := lenField_length_le payload.length
  unfold frameBody header
  split <;> simp only [List.length_append, List.length_cons, List.length_nil] <;> omega

theorem frameBody_ne_nil (cfg : Cfg) (d : Dlci) (cr : Bool) (c : Byte) (payload : List Byte) :
    frameBody cfg d cr c payload ≠ [] :=
  List.append_ne_nil_of_right_ne_nil _ (List.cons_ne_nil _ _)

/-! ### Basic mode (42_decoder.md R131 to R138) -/

/-- An address byte is the basic flag for DLCI 62 alone, which is no channel (00_scope.md R8). -/
theorem addressByte_ne_flag {d : Dlci} (hd : d.toNat ≤ 61) (cr : Bool) : addressByte d cr ≠ flagByte .basic := by
  cases cr <;> revert d <;> decide

/-- The state of the basic decoder that waits for `n` more payload bytes (42_decoder.md R134 to R136). -/
def payloadState (n : Nat) : DState := if n = 0 then .fcs else .data

/-- A length within P_MAXLEN leads to its payload. -/
theorem State.lengthTaken_holding {s : State} {dec : Decoder} (hmax : dec.dl.toNat ≤ s.cfg.maxLen) :
    (s.holding dec).lengthTaken = s.holding { dec with dstate := payloadState dec.dl.toNat } := by
  unfold State.lengthTaken payloadState
  rw [State.holding_dec, State.holding_cfg, if_neg (Nat.not_lt.mpr hmax)]
  by_cases hzero : dec.dl.toNat = 0
  · rw [if_neg (by omega), if_pos hzero, State.holding_goto]
  · rw [if_pos (by omega), if_neg hzero, State.holding_goto]

section BasicMode

variable {s : State} (hup : s.link = .up) (hmode : s.cfg.mode = .basic)
include hup hmode

theorem exec_rxByte_basic (b : Byte) (dec : Decoder) :
    exec (.rxByte b) (s.holding dec) = (s.holding dec).basicStep b :=
  execRxByte_basic b (s.holding dec) hup hmode

/-- The flag that opens a frame, or the one that closed the frame before it (42_decoder.md R131, R132). -/
theorem exec_rxByte_openingFlag (hd : s.dec.dstate = .hunt ∨ s.dec.dstate = .addr) :
    exec (.rxByte (flagByte .basic)) s = .next (s.holding { s.dec with dstate := .addr }) := by
  refine (execRxByte_basic _ s hup hmode).trans ?_
  rcases hd with hd | hd
  · simp only [State.basicStep, State.withReply_dec, hd, ↓reduceIte]
    rfl
  · simp only [State.basicStep, State.withReply_dec, hd, ↓reduceIte]
    simp only [← hd, State.holding, State.withReply]

theorem exec_rxByte_address {dec : Decoder} (hd : dec.dstate = .addr) {b : Byte} (hflag : b ≠ flagByte .basic) :
    exec (.rxByte b) (s.holding dec) = .next (s.holding { dec with da := b, dstate := .ctrl }) := by
  rw [exec_rxByte_basic hup hmode]
  simp only [State.basicStep, State.holding_dec, hd, hflag, ↓reduceIte]
  rfl

theorem exec_rxByte_control {dec : Decoder} (hd : dec.dstate = .ctrl) (b : Byte) :
    exec (.rxByte b) (s.holding dec) = .next (s.holding { dec with dc := b, dstate := .len1 }) := by
  rw [exec_rxByte_basic hup hmode]
  simp only [State.basicStep, State.holding_dec, hd]
  rfl

/-- The only byte of a one-byte length field (42_decoder.md R134). -/
theorem exec_rxByte_length {dec : Decoder} (hd : dec.dstate = .len1) {l0 : Byte} (hext : extensionBit l0 = true) :
    exec (.rxByte l0) (s.holding dec) = .next (s.holding
      { dec with dl0 := l0, dl1 := none, dpl := [], dl := BitVec.ofNat 15 (oneByteLength l0) }).lengthTaken := by
  rw [exec_rxByte_basic hup hmode]
  simp only [State.basicStep, State.holding_dec, hd, State.takeLen1, hext, ↓reduceIte]
  rfl

/-- The first byte of a two-byte length field (42_decoder.md R134). -/
theorem exec_rxByte_lengthLow {dec : Decoder} (hd : dec.dstate = .len1) {l0 : Byte} (hext : extensionBit l0 = false) :
    exec (.rxByte l0) (s.holding dec) =
      .next (s.holding { dec with dl0 := l0, dl1 := none, dpl := [], dstate := .len2 }) := by
  rw [exec_rxByte_basic hup hmode]
  simp only [State.basicStep, State.holding_dec, hd, State.takeLen1, hext, Bool.false_eq_true, ↓reduceIte]
  rfl

/-- The second byte of a two-byte length field (42_decoder.md R135). -/
theorem exec_rxByte_lengthHigh {dec : Decoder} (hd : dec.dstate = .len2) (l1 : Byte) :
    exec (.rxByte l1) (s.holding dec) = .next (s.holding
      { dec with dl1 := some l1, dl := BitVec.ofNat 15 (twoByteLength dec.dl0 l1) }).lengthTaken := by
  rw [exec_rxByte_basic hup hmode]
  simp only [State.basicStep, State.holding_dec, hd, State.takeLen2]
  rfl

/-- The decoder reads back the length field it is sent, in one byte or in two (30_encoding.md R76, R77). -/
theorem feed_lenField {dec : Decoder} (hd : dec.dstate = .len1) {n : Nat} (hmax : n ≤ s.cfg.maxLen)
    (hn : n ≤ 32767) :
    ∃ dec' : Decoder, feed (lenField n) (s.holding dec) = .next (s.holding dec') ∧ dec'.dstate = payloadState n ∧
      dec'.dl.toNat = n ∧ dec'.dpl = [] ∧ basicHeader dec' = [dec.da, dec.dc] ++ lenField n := by
  have hdl : (BitVec.ofNat 15 n).toNat = n := Nat.mod_eq_of_lt (by omega)
  rcases Nat.lt_or_ge 127 n with hlong | hshort
  · obtain ⟨l0, l1, hfield, hext, hlength⟩ := lenField_long n hlong hn
    rw [hfield, feed_cons (exec_rxByte_lengthLow hup hmode hd hext), feed_singleton,
      exec_rxByte_lengthHigh hup hmode rfl, hlength, State.lengthTaken_holding (hdl.trans_le hmax)]
    exact ⟨_, rfl, congrArg payloadState hdl, hdl, rfl, rfl⟩
  · obtain ⟨l0, hfield, hext, hlength⟩ := lenField_short n hshort
    rw [hfield, feed_singleton, exec_rxByte_length hup hmode hd hext, hlength,
      State.lengthTaken_holding (hdl.trans_le hmax)]
    exact ⟨_, rfl, congrArg payloadState hdl, hdl, rfl, rfl⟩

/-- A payload byte, with `n` more to come (42_decoder.md R136). -/
theorem exec_rxByte_payload {dec : Decoder} (hd : dec.dstate = .data) (b : Byte) {n : Nat}
    (hmore : dec.dpl.length + (n + 1) = dec.dl.toNat) :
    exec (.rxByte b) (s.holding dec) =
      .next (s.holding { dec with dpl := dec.dpl ++ [b], dstate := payloadState n }) := by
  rw [exec_rxByte_basic hup hmode]
  simp only [State.basicStep, State.holding_dec, hd, State.takeData, List.length_append, List.length_singleton]
  by_cases hlast : n = 0
  · rw [if_pos (by omega), payloadState, if_pos hlast]
    rfl
  · rw [if_neg (by omega), payloadState, if_neg hlast, ← hd]
    rfl

/-- As many payload bytes as the length says, each one taken whatever its value. -/
theorem feed_payload {dec : Decoder} {payload : List Byte} (hd : dec.dstate = payloadState payload.length)
    (hlength : dec.dpl.length + payload.length = dec.dl.toNat) :
    feed payload (s.holding dec) = .next (s.holding { dec with dpl := dec.dpl ++ payload, dstate := .fcs }) := by
  induction payload generalizing dec with
  | nil =>
    have hfcs : dec.dstate = .fcs := hd
    rw [← hfcs, List.append_nil]
    rfl
  | cons b bs ih =>
    rw [feed_cons (exec_rxByte_payload hup hmode hd b hlength), ih rfl]
    · simp only [List.append_assoc, List.singleton_append]
    · simp only [List.length_append, List.length_cons, List.length_nil] at hlength ⊢
      omega

theorem exec_rxByte_fcs {dec : Decoder} (hd : dec.dstate = .fcs) (b : Byte) :
    exec (.rxByte b) (s.holding dec) = .next (s.holding { dec with df := b, dstate := .close }) := by
  rw [exec_rxByte_basic hup hmode]
  simp only [State.basicStep, State.holding_dec, hd]
  rfl

/-- The flag behind the FCS has the frame checked, and may begin the next one (42_decoder.md R138). -/
theorem exec_rxByte_closingFlag {dec : Decoder} (hd : dec.dstate = .close) :
    exec (.rxByte (flagByte .basic)) (s.holding dec) =
      (s.holding { dec with dstate := .addr }).validate (basicHeader dec) dec.dpl dec.df := by
  rw [exec_rxByte_basic hup hmode]
  simp only [State.basicStep, State.holding_dec, hd, ↓reduceIte, State.holding_goto]

/-- The bytes of a frame behind its opening flag fill the holding registers with its parts (10_state.md R39). -/
theorem feed_frameBody {dec : Decoder} (hd : dec.dstate = .addr) {d : Dlci} (hdlci : d.toNat ≤ 61) (cr : Bool)
    (c : Byte) {payload : List Byte} (hmax : payload.length ≤ s.cfg.maxLen) (hbound : payload.length ≤ 32767) :
    ∃ dec' : Decoder, feed (frameBody s.cfg d cr c payload) (s.holding dec) = .next (s.holding dec') ∧
      dec'.dstate = .close ∧ dec'.dpl = payload ∧
      basicHeader dec' = addressByte d cr :: c :: lenField payload.length ∧
      dec'.df = fcs (covered (addressByte d cr :: c :: lenField payload.length) c payload) := by
  have hheader : header s.cfg d cr c payload.length = addressByte d cr :: c :: lenField payload.length := by
    simp only [header, hasLength, hmode, ↓reduceIte]
    rfl
  obtain ⟨taken, hfield, hstate, hdl, hdpl, hparts⟩ :=
    feed_lenField hup hmode (dec := { dec with da := addressByte d cr, dc := c, dstate := .len1 }) rfl hmax hbound
  have hpayload := feed_payload hup hmode hstate (by rw [hdpl, hdl]; exact Nat.zero_add _)
  have haddress := exec_rxByte_address hup hmode hd (addressByte_ne_flag hdlci cr)
  have hcontrol := exec_rxByte_control hup hmode
    (dec := { dec with da := addressByte d cr, dstate := .ctrl }) rfl c
  rw [frameBody, hheader, List.append_assoc, List.cons_append, feed_cons haddress, List.cons_append,
    feed_cons hcontrol, feed_append hfield, feed_append hpayload, feed_singleton, exec_rxByte_fcs hup hmode rfl, hdpl]
  exact ⟨_, rfl, rfl, rfl, hparts, rfl⟩

end BasicMode

/-- Settles O7: flag, header, payload and FCS are taken in turn, and the closing flag checks what they left. -/
theorem basicFrameIsReceivedAsSent : Obligations.BasicFrameIsReceivedAsSent := by
  intro s d cr c payload hup hmode hd hdlci hmax hbound
  obtain ⟨dec, hbody, hclose, hdpl, hheader, hdf⟩ := feed_frameBody hup hmode
    (dec := { s.dec with dstate := .addr }) rfl hdlci cr c hmax (hmax.trans hbound)
  refine ⟨{ dec with dstate := .addr }, rfl, ?_⟩
  simp only [encodeFrame, hmode]
  rw [List.append_assoc, List.singleton_append, feed_cons (exec_rxByte_openingFlag hup hmode hd), feed_append hbody,
    feed_singleton, exec_rxByte_closingFlag hup hmode hclose, hheader, hdpl, hdf, State.validate_sent]
  rfl

/-! ### Advanced mode (42_decoder.md R139 to R144) -/

/-- The body of a frame is parsed into the frame's parts, with and without a length field (42_decoder.md R143, R144). -/
theorem State.parseAdvanced_frameBody (s : State) (hmode : s.cfg.mode = .advanced) (d : Dlci) (cr : Bool) (c : Byte)
    {payload : List Byte} (hmax : payload.length ≤ s.cfg.maxLen) (hbound : payload.length ≤ 32767) :
    s.parseAdvanced (frameBody s.cfg d cr c payload) = exec (decodeFrame (addressByte d cr) c payload) s := by
  unfold State.parseAdvanced frameBody header hasLength
  rw [hmode]
  cases s.cfg.advLen with
  | absent => exact (s.parseWithoutLength_eq _ c _ payload hmax).trans (s.validate_sent d cr c [] payload)
  | present =>
    rcases Nat.lt_or_ge 127 payload.length with hlong | hshort
    · obtain ⟨l0, l1, hfield, hext, hlength⟩ := lenField_long payload.length hlong hbound
      rw [twoByteLength_eq] at hlength
      simp only [hfield]
      refine (s.parseWithLength_long _ c l0 l1 _ payload hext).trans ?_
      rw [if_neg (by omega)]
      exact s.validate_sent d cr c [l0, l1] payload
    · obtain ⟨l0, hfield, hext, hlength⟩ := lenField_short payload.length hshort
      rw [oneByteLength_eq] at hlength
      simp only [hfield]
      refine (s.parseWithLength_short _ c l0 _ payload hext).trans ?_
      rw [if_neg (by omega)]
      exact s.validate_sent d cr c [l0] payload

/-- The advanced decoder with no byte of a frame held yet. -/
def Decoder.emptyBody (dec : Decoder) : Decoder := { dec with dbody := [], dstate := .body }

section AdvancedMode

variable {s : State} (hup : s.link = .up) (hmode : s.cfg.mode = .advanced)
include hup hmode

/-- The flag that opens a body, or the one that closed the body before it (42_decoder.md R139, R140). -/
theorem exec_rxByte_openingFlag_advanced (hd : s.dec.dstate = .hunt ∨ (s.dec.dstate = .body ∧ s.dec.dbody = [])) :
    exec (.rxByte (flagByte .advanced)) s = .next (s.holding s.dec.emptyBody) := by
  refine (execRxByte_advanced _ s hup hmode).trans ?_
  rcases hd with hd | ⟨hd, hempty⟩
  · simp only [State.advancedStep, State.withReply_dec, hd, ↓reduceIte]
    rfl
  · simp only [State.advancedStep, State.withReply_dec, hd, hempty, ↓reduceIte]
    simp only [← hd, ← hempty, State.holding, State.withReply, Decoder.emptyBody]

/-- The flag behind a body has it parsed, and may begin the next one (42_decoder.md R140). -/
theorem exec_rxByte_closingFlag_advanced {dec : Decoder} (hd : dec.dstate = .body) (hbody : dec.dbody ≠ []) :
    exec (.rxByte (flagByte .advanced)) (s.holding dec) =
      (s.holding { dec with dbody := [] }).parseAdvanced dec.dbody := by
  refine (execRxByte_advanced _ (s.holding dec) hup hmode).trans ?_
  simp only [State.advancedStep, State.withReply_dec, State.holding_dec, hd, hbody, ↓reduceIte]
  rfl

end AdvancedMode

/-- Settles O8: between the flags the stuffed body gathers as `feed_stuff` says, and the closing flag parses it. -/
theorem advancedFrameIsReceivedAsSent : Obligations.AdvancedFrameIsReceivedAsSent := by
  intro s d cr c payload hup hmode hd hmax hbound
  refine ⟨s.dec.emptyBody, rfl, rfl, ?_⟩
  have hroom : s.dec.emptyBody.dbody.length + (frameBody s.cfg d cr c payload).length ≤ maxBody s.cfg := by
    have hlen := frameBody_length_le s.cfg d cr c payload
    simp only [Decoder.emptyBody, maxBody, List.length_nil]
    omega
  have hgather := feed_stuff (s := s.holding s.dec.emptyBody) hup hmode rfl rfl (frameBody s.cfg d cr c payload) hroom
  rw [State.holding_joined] at hgather
  simp only [encodeFrame, hmode]
  rw [List.append_assoc, List.singleton_append, feed_cons (exec_rxByte_openingFlag_advanced hup hmode hd),
    feed_append hgather, feed_singleton,
    exec_rxByte_closingFlag_advanced hup hmode rfl (frameBody_ne_nil s.cfg d cr c payload)]
  exact (s.holding s.dec.emptyBody).parseAdvanced_frameBody hmode d cr c hmax (hmax.trans hbound)

end Sys2Proof.Machine

/-! One received byte in every DSTATE, and the frame it completes (42_decoder.md R130 to R152). -/

namespace Sys2Proof.Machine

/-! ### Bytes in general -/

/-- Settles O46: `execRxByte_ignored`. -/
theorem bytesAreIgnoredWhileTheLinkIsNotUp : Obligations.BytesAreIgnoredWhileTheLinkIsNotUp :=
  fun s b hdown => execRxByte_ignored b s hdown

/-- A byte reads nothing of the answer before it, so a lemma about `State.holding` says what it does in any state. -/
theorem exec_rxByte_holding (b : Byte) (s : State) : exec (.rxByte b) (s.holding s.dec) = exec (.rxByte b) s := rfl

theorem State.holding_frameError (s : State) (dec : Decoder) (k : FrameErrorKind) :
    (s.holding dec).frameError k = (s.frameError k).holding dec :=
  s.frameError_quiet dec k

/-! ### Basic mode (42_decoder.md R131 to R138) -/

/-- A length over P_MAXLEN ends the frame. -/
theorem State.lengthTaken_tooLong {s : State} {dec : Decoder} (hmax : s.cfg.maxLen < dec.dl.toNat) :
    (s.holding dec).lengthTaken = (s.frameError .length).holding { dec with dstate := .hunt } := by
  unfold State.lengthTaken
  rw [State.holding_dec, State.holding_cfg, if_pos hmax, State.holding_frameError, State.holding_goto]

theorem basicHeader_eq (dec : Decoder) : basicHeader dec = [dec.da, dec.dc, dec.dl0] ++ dec.dl1.toList := by
  unfold basicHeader
  cases dec.dl1 <;> rfl

section BasicMode

variable {s : State} (hup : s.link = .up) (hmode : s.cfg.mode = .basic)
include hup hmode

theorem exec_rxByte_hunted (hd : s.dec.dstate = .hunt) {b : Byte} (hflag : b ≠ flagByte .basic) :
    exec (.rxByte b) s = .next (s.countHunted.holding s.dec) := by
  refine (execRxByte_basic b s hup hmode).trans ?_
  simp only [State.basicStep, State.withReply_dec, hd, hflag, ↓reduceIte]
  rfl

/-- A flag in ADDR is fill, and moves nothing. -/
theorem exec_rxByte_fill (hd : s.dec.dstate = .addr) :
    exec (.rxByte (flagByte .basic)) s = .next (s.holding s.dec) := by
  rw [exec_rxByte_openingFlag hup hmode (.inr hd), ← hd]

/-- A payload byte, whatever the length says. -/
theorem exec_rxByte_data (hd : s.dec.dstate = .data) (b : Byte) :
    exec (.rxByte b) s = .next (s.holding
      { s.dec with
        dpl := s.dec.dpl ++ [b]
        dstate := if s.dec.dpl.length + 1 = s.dec.dl.toNat then .fcs else .data }) := by
  refine (execRxByte_basic b s hup hmode).trans ?_
  simp only [State.basicStep, State.withReply_dec, hd, State.takeData, List.length_append, List.length_singleton]
  by_cases hlast : s.dec.dpl.length + 1 = s.dec.dl.toNat
  · rw [if_pos hlast, if_pos hlast]
    rfl
  · rw [if_neg hlast, if_neg hlast, ← hd]
    rfl

/-- A byte other than the flag where the flag is due (42_decoder.md R138). -/
theorem exec_rxByte_noClose (hd : s.dec.dstate = .close) {b : Byte} (hflag : b ≠ flagByte .basic) :
    exec (.rxByte b) s = .next ((s.frameError .noClose).holding { s.dec with dstate := .hunt }) := by
  rw [← exec_rxByte_holding, exec_rxByte_basic hup hmode]
  simp only [State.basicStep, State.holding_dec, hd, hflag, ↓reduceIte]
  rw [State.holding_frameError, State.holding_goto]

end BasicMode

/-- Settles O47: the byte of each DSTATE. -/
theorem basicByteBeforeTheClosingFlag : Obligations.BasicByteBeforeTheClosingFlag := by
  intro s b hup hmode
  refine ⟨fun hd => ?hunt, fun hd => ?addr, fun hd => ?ctrl, fun hd => ?data, fun hd => ?fcs⟩
  case hunt =>
    split
    next hflag => exact hflag ▸ exec_rxByte_openingFlag hup hmode (.inl hd)
    next hflag => exact exec_rxByte_hunted hup hmode hd hflag
  case addr =>
    split
    next hflag => exact hflag ▸ exec_rxByte_fill hup hmode hd
    next hflag => exact exec_rxByte_address hup hmode hd hflag
  case ctrl => exact exec_rxByte_control hup hmode hd b
  case data => exact exec_rxByte_data hup hmode hd b
  case fcs => exact exec_rxByte_fcs hup hmode hd b

/-- Settles O48: the length that one or two bytes give, within P_MAXLEN or over it. -/
theorem basicLengthBytes : Obligations.BasicLengthBytes := by
  intro s b hup hmode
  have hone : (BitVec.ofNat 15 (b.toNat / 2)).toNat = b.toNat / 2 := Nat.mod_eq_of_lt (by omega)
  have htwo : (BitVec.ofNat 15 (s.dec.dl0.toNat / 2 + 128 * b.toNat)).toNat = s.dec.dl0.toNat / 2 + 128 * b.toNat :=
    Nat.mod_eq_of_lt (by omega)
  refine ⟨fun hd hext => ?more, fun hd hext hmax => ?one, fun hd hext hmax => ?oneTooLong,
    fun hd hmax => ?two, fun hd hmax => ?twoTooLong⟩
  case more => exact exec_rxByte_lengthLow hup hmode hd hext
  case one =>
    rw [← exec_rxByte_holding, exec_rxByte_length hup hmode hd hext, oneByteLength_eq,
      State.lengthTaken_holding (hone.trans_le hmax)]
    simp only [hone]
    rfl
  case oneTooLong =>
    rw [← exec_rxByte_holding, exec_rxByte_length hup hmode hd hext, oneByteLength_eq,
      State.lengthTaken_tooLong (hmax.trans_eq hone.symm)]
    rfl
  case two =>
    rw [← exec_rxByte_holding, exec_rxByte_lengthHigh hup hmode hd, twoByteLength_eq,
      State.lengthTaken_holding (htwo.trans_le hmax)]
    simp only [htwo]
    rfl
  case twoTooLong =>
    rw [← exec_rxByte_holding, exec_rxByte_lengthHigh hup hmode hd, twoByteLength_eq,
      State.lengthTaken_tooLong (hmax.trans_eq htwo.symm)]
    rfl

/-- Settles O49: the closing flag checks the header that the holding registers make up. -/
theorem basicClosingByteRunsTheFrame : Obligations.BasicClosingByteRunsTheFrame := by
  intro s hup hmode hd hdr idle
  have hflag : exec (.rxByte 0xF9#8) s =
      if fcs (covered hdr s.dec.dc s.dec.dpl) ≠ s.dec.df then .next (idle.frameError .fcs)
      else if s.dec.da.getLsbD 0 = false then .next (idle.frameError .badAddr)
      else exec (decodeFrame s.dec.da s.dec.dc s.dec.dpl) idle := by
    refine (exec_rxByte_closingFlag hup hmode hd).trans ?_
    rw [basicHeader_eq]
    exact State.validate_eq ..
  refine ⟨fun hfcs => ?_, fun hfcs haddr => ?_, fun hfcs haddr => ?_, fun b hb => exec_rxByte_noClose hup hmode hd hb⟩
  · rw [hflag, if_pos hfcs]
  · rw [hflag, if_neg (not_not_intro hfcs), if_pos haddr]
  · rw [hflag, if_neg (not_not_intro hfcs), if_neg (by rw [haddr]; decide)]

/-! ### Advanced mode (42_decoder.md R139 to R144) -/

theorem Decoder.emptyBody_eq_self {dec : Decoder} (hd : dec.dstate = .body) (hempty : dec.dbody = []) :
    dec.emptyBody = dec := by
  unfold Decoder.emptyBody
  rw [← hd, ← hempty]

/-- A body with no room is given up (42_decoder.md R142). -/
theorem State.appendBody_of_full {s : State} (hfull : maxBody s.cfg ≤ s.dec.dbody.length) (b : Byte) :
    (s.withReply .nothing).appendBody b =
      (s.frameError .length).holding { s.dec with dbody := [], dstate := .hunt } := by
  have hover : maxBody s.cfg < (s.dec.dbody ++ [b]).length := by
    rw [List.length_append, List.length_singleton]
    omega
  refine (if_pos hover).trans ?_
  simp only [State.frameError_withReply, State.withReply_dec, State.frameError_dec]
  rfl

/-- The byte that joins a body, where there is room for it or not. -/
theorem State.appendBody_eq (s : State) (b : Byte) :
    (s.withReply .nothing).appendBody b =
      if s.dec.dbody.length + 1 ≤ s.cfg.maxLen + 5 then s.joined [b]
      else (s.frameError .length).holding { s.dec with dbody := [], dstate := .hunt } := by
  split
  next hroom => exact State.appendBody_of_room hroom b
  next hfull => exact State.appendBody_of_full (Nat.le_of_lt_succ (not_le.mp hfull)) b

section AdvancedMode

variable {s : State} (hup : s.link = .up) (hmode : s.cfg.mode = .advanced)
include hup hmode

theorem exec_rxByte_hunted_advanced (hd : s.dec.dstate = .hunt) {b : Byte} (hflag : b ≠ flagByte .advanced) :
    exec (.rxByte b) s = .next (s.countHunted.holding s.dec) := by
  refine (execRxByte_advanced b s hup hmode).trans ?_
  simp only [State.advancedStep, State.withReply_dec, hd, hflag, ↓reduceIte]
  rfl

/-- A flag on an empty body is fill, and moves nothing. -/
theorem exec_rxByte_fill_advanced (hd : s.dec.dstate = .body) (hempty : s.dec.dbody = []) :
    exec (.rxByte (flagByte .advanced)) s = .next (s.holding s.dec) := by
  rw [exec_rxByte_openingFlag_advanced hup hmode (.inr ⟨hd, hempty⟩), Decoder.emptyBody_eq_self hd hempty]

/-- A flag behind an escape aborts the body and begins the next (42_decoder.md R141). -/
theorem exec_rxByte_abort (hd : s.dec.dstate = .esc) :
    exec (.rxByte (flagByte .advanced)) s = .next ((s.frameError .abort).holding s.dec.emptyBody) := by
  refine (execRxByte_advanced _ s hup hmode).trans ?_
  simp only [State.advancedStep, State.withReply_dec, hd, ↓reduceIte, State.frameError_withReply, State.frameError_dec]
  rfl

theorem exec_rxByte_plain_joins (hd : s.dec.dstate = .body) {b : Byte} (hflag : b ≠ flagByte .advanced)
    (hesc : b ≠ escapeByte) : exec (.rxByte b) s = .next ((s.withReply .nothing).appendBody b) := by
  refine (execRxByte_advanced b s hup hmode).trans ?_
  simp only [State.advancedStep, State.withReply_dec, hd, hflag, hesc, ↓reduceIte]

theorem exec_rxByte_escaped_joins (hd : s.dec.dstate = .esc) {b : Byte} (hflag : b ≠ flagByte .advanced) :
    exec (.rxByte b) s = .next ((s.withReply .nothing).appendBody (b ^^^ escapeMask)) := by
  refine (execRxByte_advanced b s hup hmode).trans ?_
  simp only [State.advancedStep, State.withReply_dec, hd, hflag, ↓reduceIte]

end AdvancedMode

/-- Settles O50: the byte of each DSTATE; both ways to join a body are `appendBody`. -/
theorem advancedByteInsideABody : Obligations.AdvancedByteInsideABody := by
  intro s b hup hmode
  refine ⟨fun hd => ?hunt, fun hd hflag hempty => ?fill, fun hd hesc => ?escape, fun hd hflag => ?abort,
    fun x hx => ?joins⟩
  case hunt =>
    split
    next hflag => exact hflag ▸ exec_rxByte_openingFlag_advanced hup hmode (.inl hd)
    next hflag => exact exec_rxByte_hunted_advanced hup hmode hd hflag
  case fill => exact hflag ▸ exec_rxByte_fill_advanced hup hmode hd hempty
  case escape => exact hesc ▸ execRxByte_escape hup hmode hd
  case abort => exact hflag ▸ exec_rxByte_abort hup hmode hd
  case joins =>
    have happend : exec (.rxByte b) s = .next ((s.withReply .nothing).appendBody x) := by
      rcases hx with ⟨hd, hflag, hesc, rfl⟩ | ⟨hd, hflag, rfl⟩
      · exact exec_rxByte_plain_joins hup hmode hd hflag hesc
      · exact exec_rxByte_escaped_joins hup hmode hd hflag
    rw [happend, State.appendBody_eq]
    rfl

/-! ### The flag that ends a body (42_decoder.md R143, R144) -/

theorem State.parseAdvanced_absent {s : State} (h : s.cfg.advLen = .absent) (body : List Byte) :
    s.parseAdvanced body = s.parseWithoutLength body := by
  simp only [State.parseAdvanced, h]

theorem State.parseAdvanced_present {s : State} (h : s.cfg.advLen = .present) (body : List Byte) :
    s.parseAdvanced body = s.parseWithLength body := by
  simp only [State.parseAdvanced, h]

/-- Too few bytes for a frame without a length field (42_decoder.md R144). -/
theorem State.parseWithoutLength_tooShort (s : State) {body : List Byte} (h : body.length < 3) :
    s.parseWithoutLength body = .next (s.frameError .short) :=
  if_pos h

/-- Too many bytes for a frame without a length field (42_decoder.md R144). -/
theorem State.parseWithoutLength_tooLong (s : State) {body : List Byte} (h : s.cfg.maxLen + 3 < body.length) :
    s.parseWithoutLength body = .next (s.frameError .length) := by
  unfold State.parseWithoutLength
  rw [if_neg (by omega), if_pos (by omega)]

/-- The flag behind a body that is not empty parses it, on the state with the body taken out. -/
theorem exec_rxByte_endOfBody {s : State} (hup : s.link = .up) (hmode : s.cfg.mode = .advanced)
    (hd : s.dec.dstate = .body) (hbody : s.dec.dbody ≠ []) :
    exec (.rxByte (flagByte .advanced)) s = (s.holding { s.dec with dbody := [] }).parseAdvanced s.dec.dbody :=
  exec_rxByte_closingFlag_advanced hup hmode hd hbody

/-- Settles O51: the flag parses the body, and its parts decide the outcome. -/
theorem advancedFlagRunsTheBody : Obligations.AdvancedFlagRunsTheBody := by
  constructor
  · intro s body hup hmode hlen hd hbody hne idle
    subst hbody
    have hparse : exec (.rxByte 0x7E#8) s = idle.parseWithoutLength s.dec.dbody :=
      (exec_rxByte_endOfBody hup hmode hd hne).trans (State.parseAdvanced_absent (s := idle) hlen _)
    refine ⟨fun hshort => ?_, fun hlong => ?_, fun a c f payload hparts hmax => ?_⟩
    · rw [hparse, idle.parseWithoutLength_tooShort hshort]
    · rw [hparse, idle.parseWithoutLength_tooLong hlong]
    · rw [hparse, hparts, idle.parseWithoutLength_eq a c f payload hmax, State.validate_eq]
  · intro s body hup hmode hlen hd hbody hne idle
    subst hbody
    have hparse : exec (.rxByte 0x7E#8) s = idle.parseWithLength s.dec.dbody :=
      (exec_rxByte_endOfBody hup hmode hd hne).trans (State.parseAdvanced_present (s := idle) hlen _)
    refine ⟨fun hshort => ?_, fun a c l0 f payload hparts hext => ?_, fun a c l0 l1 f payload hparts hext => ?_⟩
    · rw [hparse, idle.parseWithLength_tooShort _ hshort]
    · rw [hparse, hparts, idle.parseWithLength_short a c l0 f payload hext, State.validate_eq]
    · rw [hparse, hparts, idle.parseWithLength_long a c l0 l1 f payload hext, State.validate_eq]

end Sys2Proof.Machine

/-! Events, frame errors and good frames as whole next states (42_decoder.md R150, R151, 60_exceptions.md R250), and the
frames that fail a check before their own rule (R152). -/

namespace Sys2Proof.Machine

/-! ### Events -/

/-- An event is appended, or it is discarded and sets EVOVF. -/
theorem State.event_eq (s : State) (k : EventKind) (d : Nat) (a : Byte) (x : List Byte) :
    s.event k d a x =
      if s.design.evqDepth = some s.evq.length then { s with evOvf := true }
      else { s with evq := s.evq ++ [eventRecord k d a x] } := by
  unfold State.event
  simp only [s.evqFull_iff]
  split <;> rfl

/-- An event that is raised under a condition, field by field. -/
theorem State.event_of_condition (s : State) (p : Prop) [Decidable p] (k : EventKind) (d : Nat) (a : Byte)
    (x : List Byte) :
    (if p then s.event k d a x else s) =
      { s with
        evq := if p ∧ ¬ s.design.evqDepth = some s.evq.length then s.evq ++ [eventRecord k d a x] else s.evq
        evOvf := s.evOvf || decide (p ∧ s.design.evqDepth = some s.evq.length) } := by
  by_cases hraised : p
  · by_cases hfull : s.design.evqDepth = some s.evq.length <;> simp [State.event_eq, hraised, hfull]
  · simp [hraised]

theorem eventKindCode_of_mem {kind : EventKind} {code : BitVec 4}
    (h : (kind, code) ∈ [(EventKind.openOk, 0x1#4), (.openFail, 0x2), (.closeOk, 0x3), (.closeTimeout, 0x4),
      (.closed, 0x5), (.opened, 0x6), (.dataReady, 0x7), (.overflow, 0x8), (.ctrlRx, 0x9), (.linkHealth, 0xA)]) :
    eventKindCode kind = code := by
  simp only [List.mem_cons, Prod.mk.injEq, List.not_mem_nil, or_false] at h
  rcases h with h | h | h | h | h | h | h | h | h | h <;> (obtain ⟨rfl, rfl⟩ := h; rfl)

/-! ### Counting -/

/-- `s` with one more frame error counted, and no event raised yet (42_decoder.md R150). -/
def State.errorCounted (s : State) (k : FrameErrorKind) : State :=
  { s with
    fcsErrCnt := if k = .fcs then satInc s.fcsErrCnt else s.fcsErrCnt
    frameErrCnt := if k = .fcs then s.frameErrCnt else satInc s.frameErrCnt
    consecErr := satInc s.consecErr
    desync := s.desync || decide (s.design.desyncThreshold ≤ (satInc s.consecErr).toNat) }

theorem State.desyncRises_iff (s : State) (c : BitVec 16) :
    s.desyncRises c = true ↔ s.design.desyncThreshold ≤ c.toNat ∧ s.desync = false := by
  simp [State.desyncRises]

/-- A frame error is counted, and raises LINK_HEALTH(1) where it sets DESYNC. -/
theorem State.frameError_eq (s : State) (k : FrameErrorKind) :
    s.frameError k =
      if s.design.desyncThreshold ≤ (satInc s.consecErr).toNat ∧ s.desync = false
      then (s.errorCounted k).event .linkHealth 0 1 [] else s.errorCounted k := by
  have hdesync : (s.desync || s.desyncRises (satInc s.consecErr)) = (s.errorCounted k).desync := by
    simp only [State.desyncRises, State.errorCounted]
    cases s.desync <;> simp
  simp only [State.frameError, hdesync, s.desyncRises_iff]
  rfl

/-- A good frame is counted, and raises LINK_HEALTH(0) where DESYNC was set. -/
theorem State.goodFrame_eq (s : State) :
    s.goodFrame =
      if s.desync = true
      then ({ s with rxFrameCnt := satInc s.rxFrameCnt, consecErr := 0, desync := false } : State).event
        .linkHealth 0 0 []
      else { s with rxFrameCnt := satInc s.rxFrameCnt, consecErr := 0, desync := false } :=
  rfl

/-- Settles O52: both count first and raise their event under a condition. -/
theorem frameErrorsGoodFramesAndEvents : Obligations.FrameErrorsGoodFramesAndEvents := by
  refine ⟨fun s kind => ?_, fun s => ?_, fun s kind code d arg data hcode => ?_⟩
  · rw [State.frameError_eq, State.event_of_condition]
    rfl
  · rw [State.goodFrame_eq, State.event_of_condition]
    rfl
  · rw [State.event_eq, eventRecord, eventKindCode_of_mem hcode, BitVec.ofNat_toNat, BitVec.setWidth_eq]

/-! ### The checks of R152 after FCS and address -/

theorem State.receiveFrame_down {s : State} (hdown : s.link ≠ .up) (d : Dlci) (carries : Bool) (p : List Byte)
    (rule : State → State) : s.receiveFrame d carries p rule = s :=
  if_pos hdown

theorem State.receiveFrame_badDlci {s : State} (hup : s.link = .up) {d : Dlci} (hd : s.cfg.nch < d.toNat)
    (carries : Bool) (p : List Byte) (rule : State → State) :
    s.receiveFrame d carries p rule = s.frameError .badDlci := by
  have hserved : s.servesChannel d = false :=
    Bool.eq_false_iff.mpr fun h => Nat.not_le.mpr hd ((s.servesChannel_iff d).mp h)
  unfold State.receiveFrame
  rw [if_neg (not_not_intro hup), if_pos hserved]

theorem State.receiveFrame_payload {s : State} (hup : s.link = .up) {d : Dlci} (hd : d.toNat ≤ s.cfg.nch)
    {p : List Byte} (hp : p ≠ []) (rule : State → State) :
    s.receiveFrame d false p rule = s.frameError .payload := by
  have hserved : ¬ s.servesChannel d = false := by rw [(s.servesChannel_iff d).mpr hd]; decide
  unfold State.receiveFrame
  rw [if_neg (not_not_intro hup), if_neg hserved, if_pos ⟨rfl, hp⟩]

/-- SABM, UA, DM and DISC carry no payload, and differ in their rules only. -/
theorem exec_controlFrame {d : Dlci} {cr pf : Bool} {p : List Byte} (s : State) :
    ∀ i ∈ [Instr.rxSabm d cr pf p, .rxUa d cr pf p, .rxDm d cr pf p, .rxDisc d cr pf p],
      ∃ rule, exec i s = .next ((s.receiveFrame d false p rule).withReply .nothing) := by
  simp only [List.forall_mem_cons]
  exact ⟨⟨_, rfl⟩, ⟨_, rfl⟩, ⟨_, rfl⟩, ⟨_, rfl⟩, List.forall_mem_nil _⟩

/-- A frame of a type that is not reserved passes the checks of R152 before its rule runs. -/
theorem exec_typedFrame {d : Dlci} {cr pf : Bool} {p : List Byte} (s : State) :
    ∀ i ∈ [Instr.rxSabm d cr pf p, .rxUa d cr pf p, .rxDm d cr pf p, .rxDisc d cr pf p, .rxUih d cr pf p,
        .rxUi d cr pf p],
      ∃ carries rule, exec i s = .next ((s.receiveFrame d carries p rule).withReply .nothing) := by
  simp only [List.forall_mem_cons]
  exact ⟨⟨_, _, rfl⟩, ⟨_, _, rfl⟩, ⟨_, _, rfl⟩, ⟨_, _, rfl⟩, ⟨_, _, rfl⟩, ⟨_, _, rfl⟩, List.forall_mem_nil _⟩

/-- A reserved type is checked before the channel and the payload. -/
theorem exec_reservedFrame (d : Dlci) (cr : Bool) (c : Byte) (p : List Byte) (s : State) :
    exec (.rxReserved d cr c p) s = .next ((if s.link ≠ .up then s else s.frameError .badType).withReply .nothing) :=
  rfl

/-- Settles O53: LINK, then the type, the channel and the payload. -/
theorem malformedFramesAreDropped : Obligations.MalformedFramesAreDropped := by
  intro s d cr pf c payload
  refine ⟨fun hdown i hi => ?link, fun hup => ?type, fun hup hd i hi => ?channel, fun hup hd hp i hi => ?payload⟩
  case link =>
    rcases (List.mem_append (s := [_, _, _, _, _, _])).mp hi with htyped | hreserved
    · obtain ⟨carries, rule, h⟩ := exec_typedFrame s i htyped
      rw [h, State.receiveFrame_down hdown]
      rfl
    · rw [List.mem_singleton.mp hreserved, exec_reservedFrame, if_pos hdown]
      rfl
  case type =>
    rw [exec_reservedFrame, if_neg (not_not_intro hup)]
    rfl
  case channel =>
    obtain ⟨carries, rule, h⟩ := exec_typedFrame s i hi
    rw [h, State.receiveFrame_badDlci hup hd]
    rfl
  case payload =>
    obtain ⟨rule, h⟩ := exec_controlFrame s i hi
    rw [h, State.receiveFrame_payload hup hd hp]
    rfl

end Sys2Proof.Machine

/-! The shared operations of channel control, each said once as later proofs use it: the checks of the commands that follow
their must-be-zero fields, the frames that answer, and an expired response timer (43_mux_control.md R170 to R187). -/

namespace Sys2Proof.Machine

/-! ### Operands -/

/-- A channel operand is the channel it numbers. -/
theorem dlci_ofNat_toNat (d : Dlci) : BitVec.ofNat 6 d.toNat = d := by
  rw [BitVec.ofNat_toNat, BitVec.setWidth_eq]

theorem dlci_eq_zero_iff (d : Dlci) : d = 0 ↔ d.toNat = 0 := (BitVec.toNat_eq (y := 0#6))

/-- A must-be-zero field that is not 0 makes an illegal encoding (30_encoding.md R86). -/
theorem illegal_of_operands {d : Dlci} {n : Arg} (h : d ≠ 0 ∨ n ≠ 0) : (!(d == 0 && n == 0)) = true :=
  (Bool.not_eq_true' _).mpr (noOperands_false d n h)

theorem illegal_of_argument {n : Arg} (h : n ≠ 0) : (!(n == 0)) = true :=
  (Bool.not_eq_true' _).mpr (noArgument_false n h)

/-- A frame on the channel that an operand numbers (41_encoder.md R116, R122). -/
theorem State.sendFrame_toNat (s : State) (d : Dlci) (cr : Bool) (c : Byte) (p : List Byte) :
    s.sendFrame d.toNat cr c p =
      { s with tx := s.tx ++ encodeFrame s.cfg d cr c p, txFrameCnt := satInc s.txFrameCnt, writing := true } := by
  unfold State.sendFrame
  rw [dlci_ofNat_toNat]
  rfl

/-- The channel check of CLOSE and TIMEOUT (43_mux_control.md R173, R174). -/
theorem State.servesChannel_ne_false {s : State} {d : Dlci} (h : d.toNat ≤ s.cfg.nch) : ¬ s.servesChannel d = false := by
  rw [(s.servesChannel_iff d).mpr h]; decide

theorem State.servesChannel_eq_false {s : State} {d : Dlci} (h : s.cfg.nch < d.toNat) : s.servesChannel d = false :=
  Bool.eq_false_iff.mpr fun hserved => Nat.not_le.mpr h ((s.servesChannel_iff d).mp hserved)

/-! ### The checks of the commands, with no must-be-zero field set -/

theorem exec_start_zero (data : List Byte) (s : State) :
    exec (.start 0 0 data) s =
      if s.link ≠ .up then .next (s.answer .link .nothing)
      else if (s.chan 0).state ≠ .closed then .next (s.answer .state .nothing)
      else .next ((({ s with role := .initiator }.setChan 0 (openingChannel (s.chan 0))).sendSabm 0).answer .ok .nothing) :=
  rfl

/-- OPEN's search for the lowest Closed channel, and the open of the one it finds (43_mux_control.md R172). -/
def State.allocation (s : State) : Result :=
  match s.lowestClosed with
  | none => .next (s.answer .noFree .nothing)
  | some e =>
    .next (((s.setChan e (emptiedChannel (openingChannel (s.chan e)))).sendSabm e).answer .ok (.dlci (BitVec.ofNat 6 e)))

theorem State.allocation_of_none {s : State} (h : s.lowestClosed = none) :
    s.allocation = .next (s.answer .noFree .nothing) := by
  rw [State.allocation, h]

theorem State.allocation_of_some {s : State} {e : Nat} (h : s.lowestClosed = some e) :
    s.allocation =
      .next (((s.setChan e (emptiedChannel (openingChannel (s.chan e)))).sendSabm e).answer .ok
        (.dlci (BitVec.ofNat 6 e))) := by
  rw [State.allocation, h]

/-- OPEN looks for a Closed channel once LINK = UP and CH[0] is Open (43_mux_control.md R172). -/
theorem exec_openCh_zero (data : List Byte) (s : State) :
    exec (.openCh 0 0 data) s =
      if s.link ≠ .up then .next (s.answer .link .nothing)
      else if (s.chan 0).state ≠ .opened then .next (s.answer .notStarted .nothing)
      else s.allocation :=
  rfl

theorem exec_closeCh_zero (d : Dlci) (data : List Byte) (s : State) :
    exec (.closeCh d 0 data) s =
      if s.link = .dead then .next (s.answer .link .nothing)
      else if s.servesChannel d = false then .next (s.answer .badDlci .nothing)
      else if s.link = .down then .next (s.answer .ok .nothing)
      else if (s.chan d.toNat).state ≠ .opened then .next (s.answer .state .nothing)
      else if d = 0 ∧ s.logicalAllClosed = false then .next (s.answer .state .nothing)
      else .next (((s.setChan d.toNat (closingChannel (s.chan d.toNat))).sendDisc d.toNat).answer .ok .nothing) :=
  rfl

theorem exec_timeout_zero (d : Dlci) (data : List Byte) (s : State) :
    exec (.timeout d 0 data) s =
      if s.servesChannel d = false then .next (s.answer .badDlci .nothing)
      else .next ((s.timerExpired d.toNat).answer .ok .nothing) :=
  rfl

theorem exec_timeout_served {s : State} {d : Dlci} (hd : d.toNat ≤ s.cfg.nch) (data : List Byte) :
    exec (.timeout d 0 data) s = .next ((s.timerExpired d.toNat).answer .ok .nothing) := by
  rw [exec_timeout_zero, if_neg (State.servesChannel_ne_false hd)]

theorem exec_linkdown_zero (data : List Byte) (s : State) :
    exec (.linkdown 0 0 data) s =
      if s.link ≠ .up then .next (s.answer .ok .nothing) else .next (s.linkLost.decoderReset.answer .ok .nothing) :=
  rfl

theorem exec_teardown_zero (data : List Byte) (s : State) :
    exec (.teardown 0 0 data) s =
      if s.link ≠ .up then .next (s.answer .link .nothing) else .next (s.tornDown.decoderReset.answer .ok .nothing) :=
  rfl

end Sys2Proof.Machine

/-! START, OPEN and CLOSE: their checks in order, and the frame and the channel when all pass (43_mux_control.md R171 to
R173). -/

namespace Sys2Proof.Machine

/-- Settles O30: three checks, then SABM on the control channel with the C/R bit of the new role. -/
theorem startOpensTheControlChannel : Obligations.StartOpensTheControlChannel := by
  refine ⟨fun s d n data h => ?illegal, fun s data hlink => ?link, fun s data hup hopen => ?state,
    fun s data hup hclosed => ?started⟩
  case illegal => exact illegalEncodingsReturnIllegal (.start d n data) s (illegal_of_operands h)
  case link =>
    rw [exec_start_zero, if_pos hlink]
    rfl
  case state =>
    rw [exec_start_zero, if_neg (not_not_intro hup), if_pos hopen]
    rfl
  case started =>
    rw [exec_start_zero, if_neg (not_not_intro hup), if_neg (not_not_intro hclosed)]
    rfl

/-- Settles O31: three checks, then the search for the lowest Closed channel. -/
theorem openTakesTheLowestClosedChannel : Obligations.OpenTakesTheLowestClosedChannel := by
  refine ⟨fun s d n data h => ?illegal, fun s data hlink => ?link, fun s data hup hcontrol => ?notStarted,
    fun s data hup hcontrol hnone => ?noFree, fun s data e hup hcontrol hlow hhigh hclosed hlowest => ?taken⟩
  case illegal => exact illegalEncodingsReturnIllegal (.openCh d n data) s (illegal_of_operands h)
  case link =>
    rw [exec_openCh_zero, if_pos hlink]
    rfl
  case notStarted =>
    rw [exec_openCh_zero, if_neg (not_not_intro hup), if_pos hcontrol]
    rfl
  case noFree =>
    rw [exec_openCh_zero, if_neg (not_not_intro hup), if_neg (not_not_intro hcontrol),
      State.allocation_of_none (s.lowestClosed_none.mpr hnone)]
    rfl
  case taken =>
    have hfound : s.lowestClosed = some e := (s.lowestClosed_some e).mpr ⟨hlow, hhigh, hclosed, hlowest⟩
    rw [exec_openCh_zero, if_neg (not_not_intro hup), if_neg (not_not_intro hcontrol),
      State.allocation_of_some hfound]
    rfl

/-- CH[0] is closed last: a logical channel that is not Closed fails CLOSE's last check (43_mux_control.md R173). -/
theorem State.logicalAllClosed_false {s : State} {e : Nat} (hlow : 1 ≤ e) (hhigh : e ≤ s.cfg.nch)
    (hopen : (s.chan e).state ≠ .closed) : s.logicalAllClosed = false :=
  Bool.eq_false_iff.mpr fun hall => hopen (s.logicalAllClosed_iff.mp hall e hlow hhigh)

/-- Settles O32: six checks, then DISC. -/
theorem closeSendsDiscOnAnOpenChannel : Obligations.CloseSendsDiscOnAnOpenChannel := by
  have live : ∀ {s : State}, s.link = .up → ¬ s.link = .dead ∧ ¬ s.link = .down := fun hup => by simp [hup]
  refine ⟨fun s d n data h => ?illegal, fun s d data hdead => ?link, fun s d data halive hd => ?badDlci,
    fun s d data hdown hd => ?down, fun s d data hup hd hstate => ?state, fun s d data hup hd hopened hlast => ?closing⟩
  case illegal => exact illegalEncodingsReturnIllegal (.closeCh d n data) s (illegal_of_argument h)
  case link =>
    rw [exec_closeCh_zero, if_pos hdead]
    rfl
  case badDlci =>
    rw [exec_closeCh_zero, if_neg halive, if_pos (State.servesChannel_eq_false hd)]
    rfl
  case down =>
    rw [exec_closeCh_zero, if_neg (by simp [hdown]), if_neg (State.servesChannel_ne_false hd), if_pos hdown]
    rfl
  case state =>
    rw [exec_closeCh_zero, if_neg (live hup).1, if_neg (State.servesChannel_ne_false hd), if_neg (live hup).2]
    by_cases hopened : (s.chan d.toNat).state = .opened
    · obtain ⟨hzero, e, hlow, hhigh, hopen⟩ := hstate.resolve_left (not_not_intro hopened)
      rw [if_neg (not_not_intro hopened), if_pos ⟨hzero, State.logicalAllClosed_false hlow hhigh hopen⟩]
      rfl
    · rw [if_pos hopened]
      rfl
  case closing =>
    have hall : ¬ (d = 0 ∧ s.logicalAllClosed = false) := fun ⟨hzero, hfalse⟩ =>
      Bool.eq_false_iff.mp hfalse (s.logicalAllClosed_iff.mpr (hlast hzero))
    rw [exec_closeCh_zero, if_neg (live hup).1, if_neg (State.servesChannel_ne_false hd), if_neg (live hup).2,
      if_neg (not_not_intro hopened), if_neg hall, State.sendDisc_eq,
      State.sendFrame_toNat]
    rfl

end Sys2Proof.Machine

/-! TIMEOUT: what an expired response timer does to a channel in each state, and to an open that is never answered or is
answered late (43_mux_control.md R174, R184, R249, R259). -/

namespace Sys2Proof.Machine

/-! ### An expired timer (43_mux_control.md R174) -/

theorem State.timerExpired_unarmed {s : State} {d : Nat} (htmr : (s.chan d).tmr = false) : s.timerExpired d = s :=
  if_pos htmr

/-- A channel at rest has nothing to time out. -/
theorem State.timerExpired_atRest {s : State} {d : Nat} (h : (s.chan d).state = .closed ∨ (s.chan d).state = .opened) :
    s.timerExpired d = s := by
  unfold State.timerExpired
  rcases h with h | h <;> simp only [h, ite_self]

theorem State.timerExpired_opening {s : State} {d : Nat} (htmr : (s.chan d).tmr = true)
    (hstate : (s.chan d).state = .opening) :
    s.timerExpired d =
      if (s.chan d).att.toNat < 3 then (s.sendSabm d).countAttempt d else s.closeWith d .openFail 0 := by
  unfold State.timerExpired
  simp only [htmr, hstate, Bool.true_eq_false, if_false]
  rfl

theorem State.timerExpired_closing {s : State} {d : Nat} (htmr : (s.chan d).tmr = true)
    (hstate : (s.chan d).state = .closing) :
    s.timerExpired d =
      if (s.chan d).att.toNat < 1 then (s.sendDisc d).countAttempt d else s.closeWith d .closeTimeout 0 := by
  unfold State.timerExpired
  simp only [htmr, hstate, Bool.true_eq_false, if_false]
  rfl

/-- `s` after a TIMEOUT that sends SABM on channel `d` once more. -/
def State.reopened (s : State) (d : Dlci) : State :=
  { s with
    ch := s.ch.set d.toNat { s.chan d.toNat with att := (s.chan d.toNat).att + 1 }
    tx := s.tx ++ encodeFrame s.cfg d s.cmdCR 0x3F#8 []
    txFrameCnt := satInc s.txFrameCnt
    writing := true
    reply := .command .ok .nothing }

/-- A TIMEOUT of an open with attempts left. -/
theorem exec_timeout_retries {s : State} {d : Dlci} (hd : d.toNat ≤ s.cfg.nch) (htmr : (s.chan d.toNat).tmr = true)
    (hstate : (s.chan d.toNat).state = .opening) (hatt : (s.chan d.toNat).att.toNat < 3) (data : List Byte) :
    exec (.timeout d 0 data) s = .next (s.reopened d) := by
  rw [exec_timeout_served hd, State.timerExpired_opening htmr hstate, if_pos hatt, State.sendSabm_eq,
    State.sendFrame_toNat]
  rfl

/-- A TIMEOUT of an open with its attempts spent. -/
theorem exec_timeout_fails {s : State} {d : Dlci} (hd : d.toNat ≤ s.cfg.nch) (htmr : (s.chan d.toNat).tmr = true)
    (hstate : (s.chan d.toNat).state = .opening) (hatt : (s.chan d.toNat).att.toNat = 3) (data : List Byte) :
    exec (.timeout d 0 data) s = .next ((s.closeWith d.toNat .openFail 0).answer .ok .nothing) := by
  rw [exec_timeout_served hd, State.timerExpired_opening htmr hstate, if_neg (by omega)]

/-- Settles O33: two checks, then the expired timer by the state of the channel. -/
theorem timeoutResendsOrFails : Obligations.TimeoutResendsOrFails := by
  refine ⟨fun s d n data h => ?illegal, fun s d data hd => ?badDlci, fun s d data hd htmr => ?unarmed,
    fun s d data hd htmr hstate hatt => ?retries, fun s d data hd htmr hstate hatt => ?fails,
    fun s d data hd htmr hstate hatt => ?closes, fun s d data hd htmr hstate hatt => ?disconnects,
    fun s d data hd hrest => ?atRest⟩
  case illegal => exact illegalEncodingsReturnIllegal (.timeout d n data) s (illegal_of_argument h)
  case badDlci =>
    rw [exec_timeout_zero, if_pos (State.servesChannel_eq_false hd)]
    rfl
  case unarmed =>
    rw [exec_timeout_served hd, State.timerExpired_unarmed htmr]
    rfl
  case retries => exact exec_timeout_retries hd htmr hstate hatt data
  case fails => exact exec_timeout_fails hd htmr hstate hatt data
  case closes =>
    rw [exec_timeout_served hd, State.timerExpired_closing htmr hstate, if_neg (by omega)]
    rfl
  case disconnects =>
    have hzero : (s.chan d.toNat).att = 0 := BitVec.eq_of_toNat_eq hatt
    have hone : (s.chan d.toNat).att + 1 = 1 := by rw [hzero]; rfl
    rw [exec_timeout_served hd, State.timerExpired_closing htmr hstate, if_pos (by omega), State.sendDisc_eq,
      State.sendFrame_toNat, ← hone]
    rfl
  case atRest =>
    rw [exec_timeout_served hd, State.timerExpired_atRest hrest]
    rfl

/-! ### An open that is never answered -/

/-- Channel `d` of a complete table waits for the answer to its open, at attempt `att` (10_state.md R33). -/
structure State.AwaitsOpen (s : State) (d : Dlci) (att : BitVec 2) : Prop where
  table : s.tableComplete
  served : d.toNat ≤ s.cfg.nch
  state : (s.chan d.toNat).state = .opening
  tmr : (s.chan d.toNat).tmr = true
  att : (s.chan d.toNat).att = att

theorem State.AwaitsOpen.retries {s : State} {d : Dlci} {att : BitVec 2} (h : s.AwaitsOpen d att)
    (hatt : att.toNat < 3) (data : List Byte) : exec (.timeout d 0 data) s = .next (s.reopened d) :=
  exec_timeout_retries h.served h.tmr h.state (h.att ▸ hatt) data

theorem State.AwaitsOpen.fails {s : State} {d : Dlci} {att : BitVec 2} (h : s.AwaitsOpen d att)
    (hatt : att.toNat = 3) (data : List Byte) :
    exec (.timeout d 0 data) s = .next ((s.closeWith d.toNat .openFail 0).answer .ok .nothing) :=
  exec_timeout_fails h.served h.tmr h.state (h.att ▸ hatt) data

/-- Of the channel whose open is tried again only the attempts move. -/
theorem State.AwaitsOpen.chan_reopened {s : State} {d : Dlci} {att : BitVec 2} (h : s.AwaitsOpen d att) :
    (s.reopened d).chan d.toNat = { s.chan d.toNat with att := (s.chan d.toNat).att + 1 } :=
  s.chan_setChan_self d.toNat _ (by rw [h.table]; exact Nat.lt_succ_of_le h.served)

/-- After the retry the channel waits on, one attempt further. -/
theorem State.AwaitsOpen.reopened {s : State} {d : Dlci} {att : BitVec 2} (h : s.AwaitsOpen d att) :
    (s.reopened d).AwaitsOpen d (att + 1) where
  table := (List.length_set ..).trans h.table
  served := h.served
  state := by rw [h.chan_reopened]; exact h.state
  tmr := by rw [h.chan_reopened]; exact h.tmr
  att := by rw [h.chan_reopened, h.att]

/-- Closing a logical channel where EVQ has room raises its event (43_mux_control.md R177). -/
theorem State.closeWith_evq_of_room {s : State} {d : Nat} (hd : d ≠ 0) (hroom : s.evqFull = false) (k : EventKind)
    (a : Byte) : (s.closeWith d k a).evq = s.evq ++ [eventRecord k d a []] := by
  have hfull : (s.toClosed d).evqFull = false := hroom
  rw [State.closeWith, if_neg hd, State.event_evq, hfull]
  rfl

/-- The channel that is closed is Closed. -/
theorem State.closeWith_state (s : State) (d : Nat) (k : EventKind) (a : Byte) :
    ((s.closeWith d k a).chan d).state = .closed := by
  rw [State.chan_closeWith, if_pos rfl]
  rfl

/-- Settles O59: two attempts are left after the first, and the third TIMEOUT finds none. -/
theorem unansweredOpenFailsAtTheThirdTimeout : Obligations.UnansweredOpenFailsAtTheThirdTimeout := by
  intro s d data htable hne hd hroom hchan
  have first : s.AwaitsOpen d 1 :=
    ⟨htable, hd, congrArg Channel.state hchan, congrArg Channel.tmr hchan, congrArg Channel.att hchan⟩
  have second : (s.reopened d).AwaitsOpen d 2 := first.reopened
  have third : ((s.reopened d).reopened d).AwaitsOpen d 3 := second.reopened
  refine ⟨_, _, _, first.retries (by decide) data, second.retries (by decide) data, third.fails rfl data,
    second.att, third.att, rfl, rfl, ?_, State.closeWith_state .., rfl, ?_⟩
  · rw [State.answer_tx, State.closeWith_tx]
  · have hnz : d.toNat ≠ 0 := (dlci_eq_zero_iff d).not.mp hne
    rw [State.answer_evq, State.closeWith_evq_of_room (s := (s.reopened d).reopened d) hnz hroom, eventRecord,
      dlci_ofNat_toNat]
    rfl

end Sys2Proof.Machine

/-! SABM, UA, DM and DISC on a served channel: the answer, the new channel and its event (43_mux_control.md R180 to
R187). -/

namespace Sys2Proof.Machine

/-! ### The rules of these frames, by the state of the channel -/

/-- A frame without payload on a served channel runs its rule after GoodFrame (42_decoder.md R152). -/
theorem State.receiveFrame_served {s : State} (hup : s.link = .up) {d : Dlci} (hd : d.toNat ≤ s.cfg.nch)
    (rule : State → State) :
    (.next ((s.receiveFrame d false [] rule).withReply .nothing) : Result) =
      .next ((rule s.goodFrame).withReply .nothing) := by
  rw [s.receiveFrame_good d false [] rule hup hd fun _ => rfl]

theorem exec_rxSabm_served {s : State} (hup : s.link = .up) {d : Dlci} (hd : d.toNat ≤ s.cfg.nch) (cr pf : Bool) :
    exec (.rxSabm d cr pf []) s = .next ((s.goodFrame.rxSabmRule d.toNat pf).withReply .nothing) :=
  State.receiveFrame_served hup hd _

theorem exec_rxUa_served {s : State} (hup : s.link = .up) {d : Dlci} (hd : d.toNat ≤ s.cfg.nch) (cr pf : Bool) :
    exec (.rxUa d cr pf []) s = .next ((s.goodFrame.rxUaRule d.toNat).withReply .nothing) :=
  State.receiveFrame_served hup hd _

theorem exec_rxDm_served {s : State} (hup : s.link = .up) {d : Dlci} (hd : d.toNat ≤ s.cfg.nch) (cr pf : Bool) :
    exec (.rxDm d cr pf []) s = .next ((s.goodFrame.rxDmRule d.toNat).withReply .nothing) :=
  State.receiveFrame_served hup hd _

theorem exec_rxDisc_served {s : State} (hup : s.link = .up) {d : Dlci} (hd : d.toNat ≤ s.cfg.nch) (cr pf : Bool) :
    exec (.rxDisc d cr pf []) s = .next ((s.goodFrame.rxDiscRule d.toNat pf).withReply .nothing) :=
  State.receiveFrame_served hup hd _

theorem State.remoteOpenAccepted_iff (s : State) (d : Nat) :
    s.remoteOpenAccepted d = true ↔ s.cfg.server = true ∧ (d = 0 ∨ (s.chan 0).state = .opened) := by
  simp [State.remoteOpenAccepted]

/-- An accepted remote open: on channel 0 the block takes the role of the responder before it answers. -/
theorem State.rxSabmRule_accepted {s : State} {d : Nat} (hclosed : (s.chan d).state = .closed)
    (haccepted : s.remoteOpenAccepted d = true) (pf : Bool) :
    s.rxSabmRule d pf =
      ((({ s with role := if d = 0 then Role.responder else s.role } : State).sendUa d pf).setChan d
        (remotelyOpenedChannel (s.chan d))).event .opened d 0 [] := by
  simp only [State.rxSabmRule, hclosed, haccepted, if_true]
  rfl

theorem State.rxSabmRule_declined {s : State} {d : Nat} (hclosed : (s.chan d).state = .closed)
    (hdeclined : ¬ s.remoteOpenAccepted d = true) (pf : Bool) : s.rxSabmRule d pf = s.sendDm d pf := by
  simp only [State.rxSabmRule, hclosed, hdeclined, Bool.false_eq_true, if_false]

theorem State.rxSabmRule_opening {s : State} {d : Nat} (h : (s.chan d).state = .opening) (pf : Bool) :
    s.rxSabmRule d pf = ((s.sendUa d pf).setChan d (openedChannel (s.chan d))).event .openOk d 0 [] := by
  simp only [State.rxSabmRule, h]
  rfl

theorem State.rxSabmRule_opened {s : State} {d : Nat} (h : (s.chan d).state = .opened) (pf : Bool) :
    s.rxSabmRule d pf = s.sendUa d pf := by
  simp only [State.rxSabmRule, h]

theorem State.rxSabmRule_closing {s : State} {d : Nat} (h : (s.chan d).state = .closing) (pf : Bool) :
    s.rxSabmRule d pf = s.sendDm d pf := by
  simp only [State.rxSabmRule, h]

theorem State.rxUaRule_atRest {s : State} {d : Nat} (h : (s.chan d).state = .closed ∨ (s.chan d).state = .opened) :
    s.rxUaRule d = s := by
  rcases h with h | h <;> simp only [State.rxUaRule, h]

theorem State.rxUaRule_opening {s : State} {d : Nat} (h : (s.chan d).state = .opening) :
    s.rxUaRule d = (s.setChan d (openedChannel (s.chan d))).event .openOk d 0 [] := by
  simp only [State.rxUaRule, h]

theorem State.rxUaRule_closing {s : State} {d : Nat} (h : (s.chan d).state = .closing) :
    s.rxUaRule d = s.closeWith d .closeOk 0 := by
  simp only [State.rxUaRule, h]

/-- The event with which DM and DISC close a channel in use, and its reason (43_mux_control.md R185, R187). -/
def remoteLoss : ChState → EventKind × Byte
  | .opening => (.openFail, reasonCode .refused)
  | .opened => (.closed, reasonCode .remote)
  | _ => (.closeOk, 0)

theorem State.rxDmRule_eq (s : State) (d : Nat) :
    s.rxDmRule d =
      if (s.chan d).state = .closed then s
      else s.closeWith d (remoteLoss (s.chan d).state).1 (remoteLoss (s.chan d).state).2 := by
  unfold State.rxDmRule
  cases (s.chan d).state <;> rfl

theorem State.rxDiscRule_eq (s : State) (d : Nat) (pf : Bool) :
    s.rxDiscRule d pf =
      if (s.chan d).state = .closed then s.sendDm d pf
      else (s.sendUa d pf).closeWith d (remoteLoss (s.chan d).state).1 (remoteLoss (s.chan d).state).2 := by
  unfold State.rxDiscRule
  cases (s.chan d).state <;> rfl

/-! ### The answering frames, with F copied from P (41_encoder.md R119, R120) -/

theorem controlByte_ua (pf : Bool) : controlByte 0x63#8 pf = if pf then 0x73#8 else 0x63#8 := by cases pf <;> rfl

theorem controlByte_dm (pf : Bool) : controlByte 0x0F#8 pf = if pf then 0x1F#8 else 0x0F#8 := by cases pf <;> rfl

theorem State.sendUa_toNat (s : State) (d : Dlci) (pf : Bool) :
    s.sendUa d.toNat pf =
      { s with
        tx := s.tx ++ encodeFrame s.cfg d s.rspCR (if pf then 0x73#8 else 0x63#8) []
        txFrameCnt := satInc s.txFrameCnt
        writing := true } := by
  rw [State.sendUa_eq, State.sendFrame_toNat, controlByte_ua]

theorem State.sendDm_toNat (s : State) (d : Dlci) (pf : Bool) :
    s.sendDm d.toNat pf =
      { s with
        tx := s.tx ++ encodeFrame s.cfg d s.rspCR (if pf then 0x1F#8 else 0x0F#8) []
        txFrameCnt := satInc s.txFrameCnt
        writing := true } := by
  rw [State.sendDm_eq, State.sendFrame_toNat, controlByte_dm]

/-! ### The obligations -/

/-- Settles O54: GoodFrame leaves the channels, so the state of the channel before the frame selects the rule. -/
theorem sabmIsAnsweredInEveryState : Obligations.SabmIsAnsweredInEveryState := by
  intro s d cr pf hup hd
  have hchan : ∀ e, s.goodFrame.chan e = s.chan e := s.chan_goodFrame
  have haccepted := s.goodFrame.remoteOpenAccepted_iff d.toNat
  rw [hchan, State.goodFrame_cfg, ← dlci_eq_zero_iff] at haccepted
  rw [exec_rxSabm_served hup hd]
  refine ⟨fun hclosed hserver hzero => ?control, fun hclosed hserver hne hcontrol => ?logical,
    fun hclosed hrefused => ?declined, fun hopening => ?opening, fun hopened => ?opened, fun hclosing => ?closing⟩
  case control =>
    rw [State.rxSabmRule_accepted (by rwa [hchan]) (haccepted.mpr ⟨hserver, .inl hzero⟩), State.sendUa_toNat]
    subst hzero
    rfl
  case logical =>
    rw [State.rxSabmRule_accepted (by rwa [hchan]) (haccepted.mpr ⟨hserver, .inr hcontrol⟩), State.sendUa_toNat,
      if_neg ((dlci_eq_zero_iff d).not.mp hne)]
    rfl
  case declined =>
    have hnot : ¬ (s.cfg.server = true ∧ (d = 0 ∨ (s.chan 0).state = .opened)) := by
      rintro ⟨hserver, hopen⟩
      rcases hrefused with hoff | ⟨hne, hcontrol⟩
      · exact Bool.false_ne_true (hoff.symm.trans hserver)
      · exact hopen.elim hne hcontrol
    rw [State.rxSabmRule_declined (by rwa [hchan]) (haccepted.not.mpr hnot), State.sendDm_toNat]
    rfl
  case opening =>
    rw [State.rxSabmRule_opening (by rwa [hchan]), State.sendUa_toNat, hchan]
    rfl
  case opened =>
    rw [State.rxSabmRule_opened (by rwa [hchan]), State.sendUa_toNat]
    rfl
  case closing =>
    rw [State.rxSabmRule_closing (by rwa [hchan]), State.sendDm_toNat]
    rfl

/-- Settles O55: UA and DM send nothing, and closing a channel does not read the answer of the port. -/
theorem uaAndDmInEveryState : Obligations.UaAndDmInEveryState := by
  intro s d cr pf hup hd
  have hchan : s.goodFrame.chan d.toNat = s.chan d.toNat := s.chan_goodFrame _
  rw [exec_rxUa_served hup hd, exec_rxDm_served hup hd, State.rxDmRule_eq, hchan]
  refine ⟨fun hrest => ?uaAtRest, fun hopening => ?uaOpening, fun hclosing => ?uaClosing, fun hclosed => ?dmClosed,
    fun hopening => ?dmOpening, fun hopened => ?dmOpened, fun hclosing => ?dmClosing⟩
  case uaAtRest =>
    rw [State.rxUaRule_atRest (by rwa [hchan])]
    rfl
  case uaOpening =>
    rw [State.rxUaRule_opening (by rwa [hchan]), hchan]
    rfl
  case uaClosing =>
    rw [State.rxUaRule_closing (by rwa [hchan]), State.closeWith_withReply]
    rfl
  case dmClosed =>
    rw [if_pos hclosed]
    rfl
  case dmOpening =>
    rw [hopening, if_neg (by decide), State.closeWith_withReply]
    rfl
  case dmOpened =>
    rw [hopened, if_neg (by decide), State.closeWith_withReply]
    rfl
  case dmClosing =>
    rw [hclosing, if_neg (by decide), State.closeWith_withReply]
    rfl

/-- Settles O56: DM on a Closed channel, else UA before the close. -/
theorem discIsAnsweredAndCloses : Obligations.DiscIsAnsweredAndCloses := by
  intro s d cr pf hup hd
  rw [exec_rxDisc_served hup hd, State.rxDiscRule_eq, s.chan_goodFrame]
  refine ⟨fun hclosed => ?closed, fun hopening => ?opening, fun hopened => ?opened, fun hclosing => ?closing⟩
  case closed =>
    rw [if_pos hclosed, State.sendDm_toNat]
    rfl
  case opening =>
    rw [hopening, if_neg (by decide), State.closeWith_withReply, State.sendUa_toNat]
    rfl
  case opened =>
    rw [hopened, if_neg (by decide), State.closeWith_withReply, State.sendUa_toNat]
    rfl
  case closing =>
    rw [hclosing, if_neg (by decide), State.closeWith_withReply, State.sendUa_toNat]
    rfl

end Sys2Proof.Machine

/-! An open that is answered, before or after its response timer expires (43_mux_control.md R174, R184, R249, R259). -/

namespace Sys2Proof.Machine

/-- `s` after a UA that opens channel `d`. -/
def State.answeredOpen (s : State) (d : Dlci) : State :=
  ((s.goodFrame.setChan d.toNat (openedChannel (s.chan d.toNat))).event .openOk d.toNat 0 []).withReply .nothing

theorem State.AwaitsOpen.answered {s : State} {d : Dlci} {att : BitVec 2} (h : s.AwaitsOpen d att)
    (hup : s.link = .up) (cr pf : Bool) : exec (.rxUa d cr pf []) s = .next (s.answeredOpen d) := by
  have hopening : (s.goodFrame.chan d.toNat).state = .opening := by rw [State.chan_goodFrame]; exact h.state
  rw [exec_rxUa_served hup h.served, State.rxUaRule_opening hopening, State.chan_goodFrame, State.answeredOpen]

theorem State.AwaitsOpen.chan_answeredOpen {s : State} {d : Dlci} {att : BitVec 2} (h : s.AwaitsOpen d att) :
    (s.answeredOpen d).chan d.toNat = openedChannel (s.chan d.toNat) :=
  s.goodFrame.chan_setChan_self d.toNat _ (by rw [State.goodFrame_ch, h.table]; exact Nat.lt_succ_of_le h.served)

theorem State.answeredOpen_cfg (s : State) (d : Dlci) : (s.answeredOpen d).cfg = s.cfg := s.goodFrame_cfg

theorem State.answeredOpen_tx (s : State) (d : Dlci) : (s.answeredOpen d).tx = s.tx := s.goodFrame_tx

/-- Settles O60: the UA disarms the timer, and the last TIMEOUT leaves a Closed channel, on which a UA is ignored. -/
theorem uaAndTimeoutInEitherOrder : Obligations.UaAndTimeoutInEitherOrder := by
  intro s d cr pf data htable hup hne hd hstate htmr
  have waits : s.AwaitsOpen d (s.chan d.toNat).att := ⟨htable, hd, hstate, htmr, rfl⟩
  refine ⟨?uaFirst, ?timeoutFirst⟩
  case uaFirst =>
    have hopened := waits.chan_answeredOpen
    have hdisarmed : ((s.answeredOpen d).chan d.toNat).tmr = false := by rw [hopened]; rfl
    refine ⟨_, _, waits.answered hup cr pf, ?_, by rw [hopened]; rfl, rfl, s.answeredOpen_tx d⟩
    rw [exec_timeout_served (by rwa [State.answeredOpen_cfg]), State.timerExpired_unarmed hdisarmed]
    rfl
  case timeoutFirst =>
    by_cases hatt : (s.chan d.toNat).att.toNat < 3
    · refine ⟨_, _, waits.retries hatt data, waits.reopened.answered hup cr pf, .inl ⟨hatt, ?_, ?_⟩⟩
      · rw [waits.reopened.chan_answeredOpen]
        rfl
      · rw [State.answeredOpen_tx]
        rfl
    · have hspent : (s.chan d.toNat).att.toNat = 3 := by omega
      have hclosed := s.closeWith_state d.toNat .openFail 0
      refine ⟨_, _, waits.fails hspent data, exec_rxUa_served ?_ ?_ cr pf, .inr ⟨hspent, hclosed, ?_, ?_⟩⟩
      · rwa [State.answer_link, State.closeWith_link]
      · rwa [State.answer_cfg, State.closeWith_cfg]
      all_goals rw [State.rxUaRule_atRest (.inl (by rwa [State.chan_goodFrame]))]
      · rwa [State.chan_withReply, State.chan_goodFrame]
      · rw [State.withReply_tx, State.goodFrame_tx, State.answer_tx, State.closeWith_tx]

end Sys2Proof.Machine

/-! Closing channels: CloseWith and its cascade, a lost link, and TEARDOWN (43_mux_control.md R175 to R178). -/

namespace Sys2Proof.Machine

/-- Closing a logical channel (43_mux_control.md R177). -/
theorem State.closeWith_logical {d : Nat} (hd : d ≠ 0) (s : State) (k : EventKind) (a : Byte) :
    s.closeWith d k a = (s.setChan d (closedChannel (s.chan d))).event k d a [] :=
  if_neg hd

/-- Closing CH[0]: its own event, then those of the logical channels that were not Closed (43_mux_control.md R177, R178). -/
theorem State.closeWith_control_events {s : State} (h : s.evqFits) (k : EventKind) (a : Byte) :
    (s.closeWith 0 k a).evq = (s.raised (eventRecord k 0 a [] :: s.logicalChannels.filterMap (lossRecord 3 s))).evq ∧
      (s.closeWith 0 k a).evOvf =
        (s.raised (eventRecord k 0 a [] :: s.logicalChannels.filterMap (lossRecord 3 s))).evOvf := by
  have hown : (s.toClosed 0).event k 0 a [] = (s.toClosed 0).raised [eventRecord k 0 a []] :=
    (s.toClosed 0).event_eq_raised h k 0 a []
  have hcascade := State.cascade_events _ ((s.toClosed 0).raised_evqFits [eventRecord k 0 a []])
  have hlogical : s.logicalChannels.filterMap (lossRecord 3 ((s.toClosed 0).raised [eventRecord k 0 a []])) =
      s.logicalChannels.filterMap (lossRecord 3 s) := by
    refine List.filterMap_congr fun e he => lossRecord_congr ?_ 3
    have hne : e ≠ 0 := by have := (s.mem_logicalChannels e).mp he; omega
    rw [State.chan_raised, State.chan_toClosed, if_neg hne]
  have hlist : ((s.toClosed 0).raised [eventRecord k 0 a []]).logicalChannels = s.logicalChannels := rfl
  rw [hlist, hlogical, State.raised_raised] at hcascade
  rw [State.closeWith, if_pos rfl, hown]
  exact hcascade

/-- Settles O34: a logical channel closes alone, CH[0] with the cascade. -/
theorem closingAChannelAndTheCascade : Obligations.ClosingAChannelAndTheCascade := by
  refine ⟨fun s d k a hd => ?logical, fun s k a htable hcapacity => ?control⟩
  case logical =>
    have hovf : (s.evOvf || s.evqFull) = if s.evqFull then true else s.evOvf := by
      cases s.evqFull <;> simp
    rw [State.closeWith_logical hd, hovf]
    rfl
  case control =>
    obtain ⟨hevq, hovf⟩ := State.closeWith_control_events hcapacity.2 k a
    refine ⟨fun d hd huse => ?_, fun d hd hclosed => ?_, ?_, hevq, hovf, s.closeWith_frame 0 k a⟩
    · rw [State.chan_closeWith]
      by_cases hzero : d = 0
      · rw [if_pos hzero]
        rfl
      · rw [if_neg hzero, if_pos ⟨rfl, by omega, hd, huse.resolve_left hzero⟩]
        rfl
    · rw [State.chan_closeWith, if_neg hd, if_neg fun ⟨_, _, _, hopen⟩ => hopen hclosed]
    · rw [State.tableComplete, State.closeWith_length, State.closeWith_cfg]
      exact htable

/-- LINKDOWN and TEARDOWN keep the table complete, as every run of moves does. -/
theorem Moves.tableComplete {s t : State} (hm : Moves s t) (htable : s.tableComplete) : t.tableComplete := by
  obtain ⟨_, _, hcfg, _⟩ := hm.fixed
  rw [State.tableComplete, hm.length, hcfg]
  exact htable

/-- Settles O35: LINK and the stream are given up, then each channel is lost, the control channel last. -/
theorem linkdownClosesEveryChannel : Obligations.LinkdownClosesEveryChannel := by
  refine ⟨fun s d n data h => ?illegal, fun s data hlink => ?notUp, fun s data htable hcapacity hup => ?lost⟩
  case illegal => exact illegalEncodingsReturnIllegal (.linkdown d n data) s (illegal_of_operands h)
  case notUp =>
    rw [exec_linkdown_zero, if_pos hlink]
    rfl
  case lost =>
    have hrun : exec (.linkdown 0 0 data) s = .next (s.linkLost.decoderReset.answer .ok .nothing) := by
      rw [exec_linkdown_zero, if_neg (not_not_intro hup)]
    have hframe := s.linkLost_frame
    obtain ⟨hevq, hovf⟩ := State.loseChannels_events { s with link := .down, writing := false } hcapacity.2
      s.controlChannelLast s.controlChannelLast_nodup
    refine ⟨_, hrun, ?_, rfl, rfl, ?_, fun d hd => ?_, (execLinkdown_moves 0 0 data _ _ hrun).tableComplete htable,
      hevq, hovf, ?_⟩
    · rw [State.answer_link, State.decoderReset_link, hframe]
    · rw [State.answer_writing, State.decoderReset_writing, hframe]
    · exact (State.chan_loseChannels _ _ s.controlChannelLast_nodup d).trans
        (if_pos ((s.mem_controlChannelLast d).mpr hd))
    · rw [hframe]
      rfl

/-- Settles O36: each channel is torn down, the control channel last, and then the block is dead. -/
theorem teardownDisconnectsAndKillsTheBlock : Obligations.TeardownDisconnectsAndKillsTheBlock := by
  refine ⟨fun s d n data h => ?illegal, fun s data hlink => ?notUp, fun s data htable hcapacity hup => ?torn⟩
  case illegal => exact illegalEncodingsReturnIllegal (.teardown d n data) s (illegal_of_operands h)
  case notUp =>
    rw [exec_teardown_zero, if_pos hlink]
    rfl
  case torn =>
    have hrun : exec (.teardown 0 0 data) s = .next (s.tornDown.decoderReset.answer .ok .nothing) := by
      rw [exec_teardown_zero, if_neg (not_not_intro hup)]
    have hframe := s.tearChannels_frame s.controlChannelLast
    obtain ⟨hevq, hovf⟩ := s.tearChannels_events hcapacity.2 _ s.controlChannelLast_nodup
    obtain ⟨htx, hcount⟩ := s.tearChannels_tx _ s.controlChannelLast_nodup
    refine ⟨_, hrun, rfl, rfl, rfl, rfl, fun d hd => ?_, (execTeardown_moves 0 0 data _ _ hrun).tableComplete htable,
      hevq, hovf, htx, hcount, ?_⟩
    · exact (s.chan_tearChannels _ s.controlChannelLast_nodup d).trans (if_pos ((s.mem_controlChannelLast d).mpr hd))
    · rw [State.tornDown, hframe]
      rfl

end Sys2Proof.Machine

/-! ROLE: the two places where it changes, and RESET (43_mux_control.md R188). -/

namespace Sys2Proof.Machine

/-- Of the commands only START and RESET may move ROLE. -/
theorem CommandEffect.role {s t : State} {i : Instr} (h : CommandEffect s i t) :
    t.role = s.role ∨ (i = .reset ∧ t.role = .initiator) ∨
      ∃ data, i = .start 0 0 data ∧ s.link = .up ∧ (s.chan 0).state = .closed ∧ t.role = .initiator := by
  cases h with
  | resetDone => exact .inr (.inl ⟨rfl, rfl⟩)
  | started data hup hclosed => exact .inr (.inr ⟨data, rfl, hup, hclosed, rfl⟩)
  | timedOut d => exact .inl (s.timerExpired_kept d.toNat).2.2
  | wrote d data => exact .inl (s.sendPieces_kept d.toNat data).2.2.1
  | linkLost =>
    left
    rw [State.answer_role, State.decoderReset_role, s.linkLost_frame]
  | tornDown =>
    left
    rw [State.answer_role, State.decoderReset_role, State.tornDown, s.tearChannels_frame]
  | _ => exact .inl rfl

/-- Of the received frames only an accepted SABM on DLCI 0 moves ROLE. -/
theorem FrameEffect.role {s t : State} {f : Instr} (h : FrameEffect s f t) :
    t.role = s.role ∨ ((∃ cr pf, f = .rxSabm 0 cr pf []) ∧
      s.link = .up ∧ s.cfg.server = true ∧ (s.chan 0).state = .closed ∧ t.role = .responder) := by
  cases h with
  | ignored => exact .inl rfl
  | failed _ k => exact .inl (s.frameError_role k)
  | sabm d cr pf hup =>
    rcases s.goodFrame.rxSabmRule_role d.toNat pf with hkept | ⟨hzero, hserver, hclosed, hnew⟩
    · exact .inl (hkept.trans s.goodFrame_role)
    · rw [State.goodFrame_cfg] at hserver
      rw [State.chan_goodFrame, hzero] at hclosed
      obtain rfl := (dlci_eq_zero_iff d).mpr hzero
      exact .inr ⟨⟨cr, pf, rfl⟩, hup, hserver, hclosed, hnew⟩
  | ua d cr pf =>
    obtain ⟨_, ⟨_, _, hrole⟩, _⟩ := s.goodFrame.rxRules_kept d.toNat pf []
    exact .inl (hrole.trans s.goodFrame_role)
  | dm d cr pf =>
    obtain ⟨_, _, ⟨_, _, hrole⟩, _⟩ := s.goodFrame.rxRules_kept d.toNat pf []
    exact .inl (hrole.trans s.goodFrame_role)
  | disc d cr pf =>
    obtain ⟨_, _, _, ⟨_, _, hrole⟩, _⟩ := s.goodFrame.rxRules_kept d.toNat pf []
    exact .inl (hrole.trans s.goodFrame_role)
  | data _ d p =>
    obtain ⟨_, _, _, _, _, _, hrole⟩ := s.goodFrame.rxRules_kept d.toNat false p
    exact .inl (hrole.trans s.goodFrame_role)

/-- Settles O21: by what the operation does. A byte that completes a SABM does what the SABM does. -/
theorem roleChangesInTwoPlacesAndReset : Obligations.RoleChangesInTwoPlacesAndReset := by
  intro i s t h hmoved
  cases exec_effect h with
  | command h => exact (h.role.resolve_left hmoved).imp_right .inl
  | frame h =>
    obtain ⟨⟨cr, pf, rfl⟩, haccepted⟩ := h.role.resolve_left hmoved
    exact .inr (.inr ⟨⟨cr, pf, .inl rfl⟩, haccepted⟩)
  | listened b h => exact absurd (by rw [h.2]) hmoved
  | erred b h =>
    obtain ⟨k, herror⟩ := h
    exact absurd (by rw [herror]; exact s.frameError_role k) hmoved
  | completed b f dec hc h =>
    obtain ⟨⟨cr, pf, rfl⟩, haccepted⟩ := h.role.resolve_left hmoved
    exact .inr (.inr ⟨⟨cr, pf, hc⟩, haccepted⟩)

end Sys2Proof.Machine

/-! WRITE, READ and TXCTRL: their checks in order, and what they do when all pass (44_data_path.md R210 to R212). -/

namespace Sys2Proof.Machine

/-! ### The checks of these commands -/

/-- The channel check of WRITE and READ (44_data_path.md R210, R211). -/
theorem State.isLogicalChannel_eq_false {s : State} {d : Dlci} (h : d.toNat = 0 ∨ s.cfg.nch < d.toNat) :
    s.isLogicalChannel d = false :=
  Bool.eq_false_iff.mpr fun hlogical => by
    have hrange := (s.isLogicalChannel_iff d).mp hlogical
    omega

theorem State.isLogicalChannel_ne_false {s : State} {d : Dlci} (hlow : 1 ≤ d.toNat) (hhigh : d.toNat ≤ s.cfg.nch) :
    ¬ s.isLogicalChannel d = false := by
  rw [(s.isLogicalChannel_iff d).mpr ⟨hlow, hhigh⟩]; decide

theorem exec_write_zero (d : Dlci) (data : List Byte) (s : State) :
    exec (.write d 0 data) s =
      if s.link ≠ .up then .next (s.answer .link .nothing)
      else if s.isLogicalChannel d = false then .next (s.answer .badDlci .nothing)
      else if (s.chan d.toNat).state ≠ .opened then .next (s.answer .state .nothing)
      else .next ((s.sendPieces d.toNat data).answer .ok .nothing) :=
  rfl

/-- `s` after a READ that removes `k` bytes from the buffer of channel `d`. -/
def State.readOut (s : State) (d : Dlci) (k : Nat) : State :=
  (s.setChan d.toNat { s.chan d.toNat with buf := (s.chan d.toNat).buf.drop k }).answer .ok
    (.bytes ((s.chan d.toNat).buf.take k))

theorem exec_read_eq (d : Dlci) (n : Arg) (data : List Byte) (s : State) :
    exec (.read d n data) s =
      if s.link = .dead then .next (s.answer .link .nothing)
      else if s.isLogicalChannel d = false then .next (s.answer .badDlci .nothing)
      else .next (s.readOut d (readCount n (s.chan d.toNat).buf.length)) :=
  rfl

/-- TXCTRL with a legal message: the checks that follow those of its encoding. -/
theorem exec_txctrl_legal {t : Byte} (ht : t.getLsbD 0 = true) (value : List Byte) (s : State) :
    exec (.txctrl 0 0 (t :: value)) s =
      if s.link ≠ .up then .next (s.answer .link .nothing)
      else if (s.chan 0).state ≠ .opened then .next (s.answer .notStarted .nothing)
      else if s.controlMessageFits (t :: value) = false then .next (s.answer .tooLong .nothing)
      else .next ((s.sendUih 0 (controlMessage (t :: value))).answer .ok .nothing) := by
  have hlegal : ¬ controlMessageLegal (t :: value) = false := by
    rw [(controlMessageLegal_iff _).mpr ⟨t, value, rfl, ht⟩]; decide
  exact if_neg hlegal

/-! ### WRITE (44_data_path.md R210) -/

/-- The data of a WRITE as the frames of its pieces. -/
theorem State.sendPieces_toNat (s : State) (d : Dlci) (data : List Byte) :
    s.sendPieces d.toNat data =
      { s with
        tx := s.tx ++
          ((pieces s.cfg.maxLen data.length data).map (encodeFrame s.cfg d s.cmdCR 0xEF#8)).flatten
        txFrameCnt := satInc^[(pieces s.cfg.maxLen data.length data).length] s.txFrameCnt
        writing := s.writing || !(pieces s.cfg.maxLen data.length data).isEmpty } := by
  rw [State.sendPieces, foldl_sendUih, dlci_ofNat_toNat]

/-- Settles O37: four checks, then one frame for each piece, and the pieces are the data cut into full frames. -/
theorem writeSendsTheDataInFullFrames : Obligations.WriteSendsTheDataInFullFrames := by
  refine ⟨fun s d n data h => ?illegal, fun s d data hlink => ?link, fun s d data hup hd => ?badDlci,
    fun s d data hup hlow hhigh hclosed => ?state, fun s d data hup hlow hhigh hopened hlen => ?sent⟩
  case illegal => exact illegalEncodingsReturnIllegal (.write d n data) s (illegal_of_argument h)
  case link =>
    rw [exec_write_zero, if_pos hlink]
    rfl
  case badDlci =>
    rw [exec_write_zero, if_neg (not_not_intro hup), if_pos (State.isLogicalChannel_eq_false hd)]
    rfl
  case state =>
    rw [exec_write_zero, if_neg (not_not_intro hup), if_neg (State.isLogicalChannel_ne_false hlow hhigh),
      if_pos hclosed]
    rfl
  case sent =>
    refine ⟨pieces s.cfg.maxLen data.length data, pieces_flatten _ hlen _ _ le_rfl, pieces_length _ hlen _ _,
      pieces_dropLast _ hlen _ _ le_rfl, ?_⟩
    rw [exec_write_zero, if_neg (not_not_intro hup), if_neg (State.isLogicalChannel_ne_false hlow hhigh),
      if_neg (not_not_intro hopened), State.sendPieces_toNat]
    rfl

/-! ### READ (44_data_path.md R211) -/

/-- Bytes that READ returns are the front of the buffer it reads. -/
theorem exec_read_front {s t : State} {d : Dlci} {n : Arg} {data front : List Byte}
    (h : exec (.read d n data) s = .next t) (hreply : t.reply = .command .ok (.bytes front)) :
    front <+: (s.chan d.toNat).buf := by
  rw [exec_read_eq] at h
  split at h
  · cases h; cases hreply
  split at h
  · cases h; cases hreply
  · cases h; cases hreply; exact List.take_prefix _ _

/-- Settles O38: two checks, then the buffer is cut at READ's count. -/
theorem readRemovesFromTheFront : Obligations.ReadRemovesFromTheFront := by
  refine ⟨fun s d n data hdead => ?link, fun s d n data halive hd => ?badDlci,
    fun s d n data halive hlow hhigh => ?removed,
    fun s t d n data front hconfigured hcapacity hfinite h hreply => ?bound⟩
  case link =>
    rw [exec_read_eq, if_pos hdead]
    rfl
  case badDlci =>
    rw [exec_read_eq, if_neg halive, if_pos (State.isLogicalChannel_eq_false hd)]
    rfl
  case removed =>
    refine ⟨_, _, List.take_append_drop (readCount n (s.chan d.toNat).buf.length) _, ?_, ?_⟩
    · rw [List.length_take_of_le (readCount_le n _), readCount_eq]
    · rw [exec_read_eq, if_neg halive, if_neg (State.isLogicalChannel_ne_false hlow hhigh)]
      rfl
  case bound =>
    exact (exec_read_front h hreply).length_le.trans (s.buf_length_le hconfigured hcapacity hfinite _)

/-! ### TXCTRL (44_data_path.md R212) -/

theorem State.controlMessageFits_eq_false {s : State} {t : Byte} {value : List Byte}
    (h : 32767 < value.length ∨ s.cfg.maxLen < 1 + (lenField value.length).length + value.length) :
    s.controlMessageFits (t :: value) = false :=
  Bool.eq_false_iff.mpr fun hfits => by
    have hbounds := (s.controlMessageFits_iff t value).mp hfits
    omega

/-- Settles O39: the checks of the encoding, three more, then one UIH frame on DLCI 0. -/
theorem txctrlSendsOneControlMessage : Obligations.TxctrlSendsOneControlMessage := by
  refine ⟨fun s d n data h => ?illegal, fun s t value ht hlink => ?link, fun s t value ht hup hstate => ?notStarted,
    fun s t value ht hup hopened hlong => ?tooLong, fun s t value ht hup hopened hlen hfits => ?sent⟩
  case illegal =>
    refine execTxctrl_illegal ?_
    rw [controlMessageLegal_eq]
    rcases h with hd | hn | rfl | hbit
    · exact .inl (noOperands_false d n (.inl hd))
    · exact .inl (noOperands_false d n (.inr hn))
    · exact .inr rfl
    · exact .inr hbit
  case link =>
    rw [exec_txctrl_legal ht, if_pos hlink]
    rfl
  case notStarted =>
    rw [exec_txctrl_legal ht, if_neg (not_not_intro hup), if_pos hstate]
    rfl
  case tooLong =>
    rw [exec_txctrl_legal ht, if_neg (not_not_intro hup), if_neg (not_not_intro hopened),
      if_pos (State.controlMessageFits_eq_false hlong)]
    rfl
  case sent =>
    have hpass : ¬ s.controlMessageFits (t :: value) = false := by
      rw [(s.controlMessageFits_iff t value).mpr ⟨hlen, hfits⟩]; decide
    rw [exec_txctrl_legal ht, if_neg (not_not_intro hup), if_neg (not_not_intro hopened), if_neg hpass]
    rfl

end Sys2Proof.Machine

/-! NOP, CLRSTAT and EVPOP, which no state of LINK stops (44_data_path.md R213, R214, R216). -/

namespace Sys2Proof.Machine

/-- Settles O29: NOP's one check, and nothing after it. -/
theorem nopHasNoEffect : Obligations.NopHasNoEffect := by
  intro s d n data
  by_cases hzero : d = 0 ∧ n = 0
  · rw [if_pos hzero]
    obtain ⟨rfl, rfl⟩ := hzero
    rfl
  · rw [if_neg hzero]
    exact illegalEncodingsReturnIllegal (.nop d n data) s (illegal_of_operands (not_and_or.mp hzero))

/-- Settles O40: CLRSTAT's one check, then the statistics are cleared. -/
theorem clrstatClearsTheStatistics : Obligations.ClrstatClearsTheStatistics := by
  refine ⟨fun s d n data h => ?illegal, fun s data => ?cleared⟩
  case illegal => exact illegalEncodingsReturnIllegal (.clrstat d n data) s (illegal_of_operands h)
  case cleared => rfl

theorem execEvPop_nil {s : State} (h : s.evq = []) : execEvPop s = .next (s.withReply (.event false noEvent)) := by
  simp only [execEvPop, h]

theorem execEvPop_cons {s : State} {r : EventRecord} {rest : List EventRecord} (h : s.evq = r :: rest) :
    execEvPop s = .next ({ s with evq := rest }.withReply (.event true r)) := by
  simp only [execEvPop, h]

/-- Settles O43: by whether EVQ is empty. -/
theorem evpopReturnsTheOldestEvent : Obligations.EvpopReturnsTheOldestEvent :=
  ⟨fun _ hempty => execEvPop_nil hempty, fun _ _ _ hqueue => execEvPop_cons hqueue⟩

end Sys2Proof.Machine

/-! UIH and UI frames: data on the logical channels and control messages on DLCI 0 (44_data_path.md R217 to R221). -/

namespace Sys2Proof.Machine

/-- UIH and UI on a served channel run the data rule after GoodFrame (42_decoder.md R152). -/
theorem exec_dataFrame_served {s : State} (hup : s.link = .up) {d : Dlci} (hd : d.toNat ≤ s.cfg.nch) {cr pf : Bool}
    {p : List Byte} {i : Instr} (hi : i = .rxUih d cr pf p ∨ i = .rxUi d cr pf p) :
    exec i s = .next ((s.goodFrame.rxDataRule d.toNat p).withReply .nothing) := by
  have hchecks : exec i s =
      .next ((s.receiveFrame d true p fun t => t.rxDataRule d.toNat p).withReply .nothing) := by
    rcases hi with rfl | rfl <;> rfl
  rw [hchecks, s.receiveFrame_good d true p _ hup hd nofun]

/-! ### The data rule, by the state of the channel -/

theorem State.rxDataRule_dropped {s : State} {d : Nat} (h : (s.chan d).state = .closed ∨ (s.chan d).state = .opening)
    (p : List Byte) : s.rxDataRule d p = s.dropData :=
  if_pos (by rcases h with h | h <;> simp [h])

/-- A channel that is Open or Closing takes data (44_data_path.md R217). -/
theorem State.rxDataRule_taken {s : State} {d : Nat} (h : (s.chan d).state = .opened ∨ (s.chan d).state = .closing)
    (p : List Byte) :
    s.rxDataRule d p =
      if d = 0 then s.rxCtrlRule p
      else if p = [] then s
      else if s.overflows (s.chan d).buf.length p.length then s.overflow d
      else (s.setChan d { s.chan d with buf := (s.chan d).buf ++ p }).event .dataReady d 0 [] :=
  if_neg fun ⟨hopened, hclosing⟩ => h.elim hopened hclosing

/-- A good frame does not move the capacity of the buffers. -/
theorem State.goodFrame_overflows (s : State) (len n : Nat) :
    s.goodFrame.overflows len n = !fitsCapacity (len + n) s.design.bufCap := by
  rw [State.overflows_eq, State.goodFrame_design]

/-- Settles O57: GoodFrame leaves the channel, so its state and its buffer before the frame decide. -/
theorem dataFramesFillTheBuffer : Obligations.DataFramesFillTheBuffer := by
  intro s d cr pf payload i hi hup hd
  have hchan : s.goodFrame.chan d.toNat = s.chan d.toNat := s.chan_goodFrame _
  have hnz : d ≠ 0 → d.toNat ≠ 0 := (dlci_eq_zero_iff d).not.mp
  rw [exec_dataFrame_served hup hd hi]
  refine ⟨fun hidle => ?dropped, fun htakes hne hempty => ?empty, fun htakes hne hdata hfull => ?overflowing,
    fun htakes hne hdata hfits => ?appended⟩
  case dropped =>
    rw [State.rxDataRule_dropped (by rwa [hchan])]
    rfl
  case empty =>
    rw [State.rxDataRule_taken (by rwa [hchan]), if_neg (hnz hne), if_pos hempty]
    rfl
  case overflowing =>
    rw [State.rxDataRule_taken (by rwa [hchan]), if_neg (hnz hne), if_neg hdata, hchan, State.goodFrame_overflows,
      hfull, Bool.not_false, if_pos rfl, State.overflow, hchan]
    rfl
  case appended =>
    rw [State.rxDataRule_taken (by rwa [hchan]), if_neg (hnz hne), if_neg hdata, hchan, State.goodFrame_overflows,
      hfits, Bool.not_true, if_neg Bool.false_ne_true]
    rfl

/-! ### Control messages (44_data_path.md R218) -/

theorem State.rxCtrlRule_wellFormed {s : State} {p value : List Byte} {t : Byte}
    (h : parseControlMessage p = some (t, value)) : s.rxCtrlRule p = s.event .ctrlRx 0 t value := by
  simp only [State.rxCtrlRule, h]

theorem State.rxCtrlRule_malformed {s : State} {p : List Byte} (h : parseControlMessage p = none) :
    s.rxCtrlRule p = { s with frameErrCnt := satInc s.frameErrCnt } := by
  simp only [State.rxCtrlRule, h]

/-- A payload of neither form is no message. -/
theorem parseControlMessage_eq_none {p : List Byte}
    (h : ∀ (t l0 : Byte) (value : List Byte), p = t :: l0 :: value → t.getLsbD 0 = true →
      (l0.getLsbD 0 = true → value.length ≠ l0.toNat / 2) ∧
      (l0.getLsbD 0 = false → ∀ (l1 : Byte) (rest : List Byte), value = l1 :: rest →
        rest.length ≠ l0.toNat / 2 + 128 * l1.toNat)) :
    parseControlMessage p = none := by
  refine Option.eq_none_iff_forall_ne_some.mpr fun ⟨t, value⟩ hsome => ?_
  obtain ⟨ht, ⟨l0, hp, hbit, hlen⟩ | ⟨l0, l1, hp, hbit, hlen⟩⟩ := parseControlMessage_some p t value hsome
  · exact (h t l0 value hp ht).1 hbit hlen
  · exact (h t l0 (l1 :: value) hp ht).2 hbit l1 value rfl hlen

/-- Settles O58: by what the payload is read as. -/
theorem controlMessagesBecomeEvents : Obligations.ControlMessagesBecomeEvents := by
  intro s cr pf p i hi hup htakes
  have hrule : s.goodFrame.rxDataRule 0 p = s.goodFrame.rxCtrlRule p := by
    rw [State.rxDataRule_taken (by rwa [s.chan_goodFrame]), if_pos rfl]
  have hexec : exec i s = .next ((s.goodFrame.rxCtrlRule p).withReply .nothing) := by
    rw [exec_dataFrame_served hup (Nat.zero_le _) hi, ← hrule]
    rfl
  rw [hexec]
  refine ⟨fun t l0 value hp ht hbit hlen => ?short, fun t l0 l1 value hp ht hbit hlen => ?long,
    fun hmalformed => ?malformed⟩
  case short =>
    rw [hp, State.rxCtrlRule_wellFormed ((parseControlMessage_short t l0 value ht hbit).trans (if_pos hlen))]
    rfl
  case long =>
    rw [hp, State.rxCtrlRule_wellFormed ((parseControlMessage_long t l0 l1 value ht hbit).trans (if_pos hlen))]
    rfl
  case malformed =>
    rw [State.rxCtrlRule_malformed (parseControlMessage_eq_none hmalformed)]
    rfl

end Sys2Proof.Machine

/-! RESET, by its one check: the parameters are in their ranges (70_reset_and_hazards.md R270 to R272). No other field of
the state decides what it answers, so LINK at DEAD needs no case of its own. -/

namespace Sys2Proof.Machine

theorem exec_reset_of_inRange {s : State} (hrange : configInRange s.design s.pins = true) :
    exec .reset s = .next s.afterReset := if_pos hrange

theorem exec_reset_of_outOfRange {s : State} (hrange : configInRange s.design s.pins = false) :
    exec .reset s = .refused .configurationOutOfRange := if_neg (Bool.eq_false_iff.mp hrange)

/-- Settles O44: RESET accepts the configuration, and `State.afterReset` holds these values field by field. -/
theorem resetSetsEveryField : Obligations.ResetSetsEveryField := by
  intro s hrange
  rw [exec_reset_of_inRange hrange]
  rfl

/-- Settles O45: by RESET's one check. -/
theorem resetRefusesAConfigurationOutOfRange : Obligations.ResetRefusesAConfigurationOutOfRange :=
  fun _ hrange => exec_reset_of_outOfRange hrange

end Sys2Proof.Machine
